-- ==== Sys2Proof/Word.lean ====
section
/-! DEFINITION. The word types of SCE: 32-bit registers and addresses, 8-bit memory bytes (spec 00_scope.md R9, R14). -/

namespace Sys2Proof

/-- A register value, a command word or a memory address: `ADDR_BITS = 32` (00_scope.md R9). -/
abbrev Word := BitVec 32

/-- One byte of the memory space (20_memory.md R70). -/
abbrev Byte := BitVec 8

end Sys2Proof
end

