-- ==== Sys2Proof/Config.lean ====
section
/-! DEFINITION. The parameters of SCE (spec 00_scope.md R9), fixed and open, and the free values: constants with no body, for what the spec leaves open. -/

namespace Sys2Proof.Config

/-- `BD`, the sample bit depth (00_scope.md R9). -/
@[simp] abbrev bitDepth : Nat := 8

/-- `FILTER_BITS`: every kernel's taps sum to `2 ^ FILTER_BITS` (00_scope.md R9). -/
@[simp] abbrev filterBits : Nat := 7

/-- `DIST_PRECISION_BITS`: the weights of a JNT command sum to `2 ^ DIST_PRECISION_BITS` (00_scope.md R9). -/
@[simp] abbrev distPrecisionBits : Nat := 4

/-- `FO`, the tap index of the integer sample (00_scope.md R9, 20_memory.md R75). -/
@[simp] abbrev tapOrigin : Nat := 3

/-- `NTAPS`, the stored taps of a kernel (00_scope.md R9). -/
@[simp] abbrev ntaps : Nat := 8

/-- `SUBPEL_BITS`, the width of a phase (00_scope.md R9). -/
@[simp] abbrev subpelBits : Nat := 4

/-- `SUBPEL_MASK` (00_scope.md R9). -/
@[simp] abbrev subpelMask : Nat := 2 ^ subpelBits - 1

/-- `ADDR_BITS`, the width of a memory address (00_scope.md R9, 20_memory.md R70). -/
@[simp] abbrev addrBits : Nat := 32

/-- `MAX_W` (00_scope.md R9). -/
@[simp] abbrev maxW : Nat := 128

/-- `MAX_H` (00_scope.md R9). -/
@[simp] abbrev maxH : Nat := 128

/-- `IM_ROWS`, the rows of the intermediate buffer (00_scope.md R9, 10_state.md R54). -/
@[simp] abbrev imRows : Nat := maxH + ntaps - 1

/-! ## The OPEN parameters (00_scope.md R9): arguments of the model, constants with no body. READ_FOOTPRINT is `readsExtra` below,
EXEC_LATENCY the place of an event (log 2), and BUS_OK the field `busHoles` of State (log 6). -/

/-- OPEN `SCE_MMIO_BASE` (00_scope.md R9; log 14): where the platform places the register block. -/
opaque mmioBase : Word

/-- OPEN `PLATFORM_COHERENT` (00_scope.md R9; log 12): whether engine accesses are coherent with host caches. -/
opaque platformCoherent : Bool

/-- OPEN `IRQ_LINE` (00_scope.md R9; log 17): the platform's interrupt input that the output is wired to. -/
opaque irqLine : Nat

/-- OPEN `RESET_SOURCE` (00_scope.md R9; log 17): the platform's reset source that drives the reset input. -/
opaque resetSource : Nat

/-- The instances of the platform other than this one. -/
opaque otherInstances : Nat

/-- OPEN `N_INSTANCES`, at least 1 (00_scope.md R9; log 13). -/
def nInstances : Nat := otherInstances + 1

/-! ## Free values -/

/-- DESIGN CHOICE, safe (log 9). The byte that an element holds where the spec allows any value: the write footprint after a
bus error (60_exceptions.md R247), a reset during a command (70_reset_and_hazards.md R271), changed inputs (R276), overlap
(R277) or a concurrent writer (R278). Applied to the draw counter and the byte's address. -/
opaque anyByte (draw : Nat) (addr : Word) : Byte

/-- DESIGN CHOICE, safe (log 7). `READ_FOOTPRINT`: whether this command reads the sample at a row and column of the full
window outside the needed window (20_memory.md R76). Applied to the draw counter. -/
opaque readsExtra (draw : Nat) (row col : Int) : Bool

/-- DESIGN CHOICE, safe (log 11). Whether a host load made while the engine is BUSY sees the new value of the element at an
address of the write footprint (20_memory.md R83, 70_reset_and_hazards.md R275). Applied to the draw counter. -/
opaque seesNew (draw : Nat) (elem : Word) : Bool

/-- DESIGN CHOICE, safe (log 29). What a host load reads of a byte that the engine wrote and the host has not invalidated since,
on a platform that is not coherent (20_memory.md R83). Applied to the draw counter. -/
opaque staleByte (draw : Nat) (addr : Word) : Byte

/-- DESIGN CHOICE, safe (log 5). What an entry of `IM` holds that the command in flight has not written (10_state.md R54). -/
opaque freeIm (draw : Nat) (row col : Int) : BitVec 16

end Sys2Proof.Config
end

