-- ==== Sys2Proof/Machine/State.lean ====
section
/-! DEFINITION. The state of one SCE instance (spec 10_state.md R30), the model's own fields beside it, the state after reset, and the reasons a step can stop. -/

namespace Sys2Proof.Machine

/-- The engine phase (10_state.md R53). -/
inductive Phase where
  | idle
  | busy
deriving DecidableEq, Repr

/-- The width of an access in bytes: 1, 2 or 4. -/
inductive AccessSize where
  | byte
  | half
  | word
deriving DecidableEq, Repr

/-- The direction of an engine access (60_exceptions.md R247). -/
inductive Dir where
  | read
  | write
deriving DecidableEq, Repr

/-- One event of the single sequence of 60_exceptions.md R250. Register offsets are relative to `SCE_MMIO_BASE`, which is
open (20_memory.md R80; log 14). -/
inductive Event where
  /-- A host store to the register block (10_state.md R32). -/
  | regWrite (size : AccessSize) (off : BitVec 8) (v : Word)
  /-- A host load from the register block (10_state.md R32). -/
  | regRead (size : AccessSize) (off : BitVec 8)
  /-- A host load from memory (20_memory.md R83). -/
  | memLoad (size : AccessSize) (addr : Word)
  /-- A host store to memory, visible to the engine at once (20_memory.md R84, R87). -/
  | memStore (size : AccessSize) (addr : Word) (v : Word)
  /-- A host store to memory that the engine cannot see yet (20_memory.md R84). -/
  | memPost (size : AccessSize) (addr : Word) (v : Word)
  /-- The host's fence or cache clean: its posted stores become visible (20_memory.md R84). -/
  | memFence
  /-- The oldest byte the host has posted becomes visible without a fence (20_memory.md R84). -/
  | memDrain
  /-- A store to memory by another bus agent, another SCE instance among them (20_memory.md R87, 70_reset_and_hazards.md
  R278). -/
  | otherStore (size : AccessSize) (addr : Word) (v : Word)
  /-- The host invalidates its cached copies of the addresses `lo` to `hi` (20_memory.md R83). -/
  | memInvalidate (lo hi : Word)
  /-- The command in flight reaches its end, completion or bus error (30_encoding.md R111). -/
  | engine
  /-- RESET is asserted and released (70_reset_and_hazards.md R270, R271). -/
  | reset
deriving DecidableEq, Repr

/-- The configuration registers that a snapshot copies (10_state.md R38 to R48, R56), each as the 32-bit word it reads as. -/
structure ConfigRegs where
  /-- SRC_BASE, 0x010 (R38). -/
  srcBase : Word
  /-- SRC_STRIDE, 0x014 (R39). -/
  srcStride : Word
  /-- DST_BASE, 0x018 (R40). -/
  dstBase : Word
  /-- DST_STRIDE, 0x01C (R41). -/
  dstStride : Word
  /-- CBUF_BASE, 0x020 (R42). -/
  cbufBase : Word
  /-- CBUF_STRIDE, 0x024 (R43). -/
  cbufStride : Word
  /-- BLK_SIZE, 0x028 (R44). -/
  blkSize : Word
  /-- FILT_X, 0x02C (R45). -/
  filtX : Word
  /-- FILT_Y, 0x030 (R46). -/
  filtY : Word
  /-- ROUND, 0x034 (R47). -/
  round : Word
  /-- WEIGHT, 0x038 (R48). -/
  weight : Word
deriving DecidableEq, Repr

/-- The configuration snapshot `SNAP` (10_state.md R56). -/
structure Snapshot where
  /-- The copies of the configuration registers. -/
  regs : ConfigRegs
  /-- The copy of the command word. -/
  cmd : Word
deriving DecidableEq, Repr

/-- One written entry of the intermediate buffer `IM` (10_state.md R54): its row, -3 .. H+3, its column and its signed 16-bit
value. -/
structure ImCell where
  row : Int
  col : Int
  val : BitVec 16
deriving DecidableEq, Repr

/-- A range of addresses in which the platform refuses the engine's accesses of one direction and width: the complement of
`BUS_OK(addr, width, dir)` (60_exceptions.md R247; log 6). -/
structure BusHole where
  lo : Word
  hi : Word
  /-- In bytes, 1 or 2 (20_memory.md R73). -/
  width : Nat
  dir : Dir
deriving DecidableEq, Repr

/-- A range of addresses with read side effects (20_memory.md R79; log 26). -/
structure AddrRange where
  lo : Word
  hi : Word
deriving DecidableEq, Repr

/-- The memory space: the bytes that differ from what an unlisted address reads as, by rising address (20_memory.md R70). -/
abbrev Memory := List Host.Cell

/-- A byte stored at an address. -/
abbrev ByteStore := Word × Byte

/-- The state: what 10_state.md R30 lists, memory, and the model's own fields (from `events` on). -/
structure State where
  /-- The engine phase; STATUS.BUSY is 1 exactly when it is `busy` (10_state.md R53). -/
  phase : Phase
  /-- STATUS.DONE (R34). -/
  done : Bool
  /-- STATUS.ERR (R34). -/
  err : Bool
  /-- STATUS.OVR (R34). -/
  ovr : Bool
  /-- STATUS.ERR_CODE (R34). -/
  errCode : BitVec 4
  /-- CMD, the word most recently accepted (R36). -/
  cmd : Word
  /-- IRQ_EN (R37). -/
  irqEn : Word
  /-- SRC_BASE to WEIGHT (R38 to R48). -/
  regs : ConfigRegs
  /-- KSEL (R49). -/
  ksel : Word
  /-- SNAP (R56). -/
  snap : Snapshot
  /-- IM (R54): the entries the command in flight has written. -/
  im : List ImCell
  /-- The memory space (20_memory.md R70). -/
  mem : Memory
  /-- The model's own: the rest of the sequence of events (60_exceptions.md R250; log 1). -/
  events : List Event
  /-- The model's own: host stores not yet visible to the engine, oldest first (20_memory.md R84; log 12). -/
  posted : List ByteStore
  /-- The model's own: bytes that the engine, or another agent, wrote and of which the host may hold an older cached copy
  (20_memory.md R83; log 29). -/
  stale : List Word
  /-- The model's own: the results of the command in flight are unspecified (70_reset_and_hazards.md R276, R277; log 9). -/
  tainted : Bool
  /-- The model's own: bytes of the write footprint that the host or another agent stored to while the command ran
  (70_reset_and_hazards.md R278; log 18). -/
  raced : List Word
  /-- The model's own: what the last host read returned (10_state.md R32; log 16). -/
  rdata : Word
  /-- The model's own: the counter that free values are applied to (log 9). -/
  draws : Nat
  /-- The model's own: the platform's refused accesses (60_exceptions.md R247; log 6). -/
  busHoles : List BusHole
  /-- The model's own: the platform's regions with read side effects (20_memory.md R79; log 26). -/
  deviceRegions : List AddrRange
deriving DecidableEq, Repr

/-- Every configuration register 0 (10_state.md R58). -/
def ConfigRegs.reset : ConfigRegs where
  srcBase := 0
  srcStride := 0
  dstBase := 0
  dstStride := 0
  cbufBase := 0
  cbufStride := 0
  blkSize := 0
  filtX := 0
  filtY := 0
  round := 0
  weight := 0

/-- The state after reset (10_state.md R58). SNAP and IM are unspecified there: logs 4 and 5. Memory has nothing listed: log 3.
The model's own fields: logs 1, 6, 9, 12, 16, 18, 26 and 29. -/
def State.reset : State where
  phase := .idle
  done := false
  err := false
  ovr := false
  errCode := 0
  cmd := 0
  irqEn := 0
  regs := ConfigRegs.reset
  ksel := 0
  snap := { regs := ConfigRegs.reset, cmd := 0 }
  im := []
  mem := []
  events := []
  posted := []
  stale := []
  tainted := false
  raced := []
  rdata := 0
  draws := 0
  busHoles := []
  deviceRegions := []

/-- The faults of the model. The spec's own errors (60_exceptions.md R241) are no faults: they are next states. -/
inductive Fault where
  /-- Raised by the end of a command when the phase is BUSY and SNAP holds no legal command word. The spec gives such a state no
  meaning, and no state that meets `Sys2Proof.Safety.MachineInv` is one (10_state.md R53). Safe. -/
  | noCommandInFlight
deriving DecidableEq, Repr

/-- The refusals of the model. -/
inductive Refusal where
  /-- Raised by an instruction that has no meaning yet. Safe. No instruction of this model raises it. -/
  | notModelled (mnemonic : String)
  /-- Raised by a host access to the register block that is not an aligned 32-bit access: the spec gives it no defined effect
  and says that a model refuses it (10_state.md R32, 93_implementation_defined.md A2; log 15). Safe, but that aligned is meant of
  the offset in the block is the model's choice (log 30). -/
  | subWordMmio
deriving DecidableEq, Repr

end Sys2Proof.Machine
end

