-- ==== Sys2Proof/Machine/Arith.lean ====
section
/-! DEFINITION. The arithmetic primitives of the spec's pseudocode, on unbounded integers (00_scope.md R10 to R12), and the little-endian byte order of a store (R14). -/

namespace Sys2Proof.Machine

/-- `a << n` (00_scope.md R10). -/
def shl (a : Int) (n : Nat) : Int := a * 2 ^ n

/-- `a >> n`, the arithmetic right shift: the floor of `a / 2^n` for negative `a` too (00_scope.md R10). -/
def asr (a : Int) (n : Nat) : Int := a / 2 ^ n

/-- `ROUND(v, n) = (v + ((1 << n) >> 1)) >> n` (00_scope.md R11). -/
def roundShift (v : Int) (n : Nat) : Int := asr (v + asr (shl 1 n) 1) n

/-- `CLIP8(v)` (00_scope.md R12). -/
def clip8 (v : Int) : Int := if v < 0 then 0 else if 255 < v then 255 else v

/-- The number of bytes of an access. -/
def AccessSize.bytes : AccessSize → Nat
  | .byte => 1
  | .half => 2
  | .word => 4

/-- The byte stores of `MemWrite(addr, n, v)`: the low `8n` bits of `v`, least significant byte at `addr`, addresses mod 2^32
(00_scope.md R14). -/
def memWrite (addr : Word) (n : Nat) (v : Int) : List ByteStore :=
  (List.range n).map fun k => (addr + BitVec.ofNat 32 k, BitVec.ofInt 8 (asr v (8 * k)))

end Sys2Proof.Machine
end

