-- ==== Sys2Proof/Machine/Flags.lean ====
section
/-! DEFINITION. The STATUS flags, their clearing, the error codes and the interrupt output (spec 10_state.md R34, R35, R52; 60_exceptions.md R241, R249). -/

namespace Sys2Proof.Machine

/-- The errors of 60_exceptions.md R241. -/
inductive ErrCode where
  | illegalCmd
  | size
  | filter
  | round
  | weight
  | stride
  | align
  | bus
deriving DecidableEq, Repr

/-- The value of ERR_CODE (60_exceptions.md R241). -/
def ErrCode.code : ErrCode → BitVec 4
  | .illegalCmd => 1
  | .size => 2
  | .filter => 3
  | .round => 4
  | .weight => 5
  | .stride => 6
  | .align => 7
  | .bus => 8

/-- STATUS.BUSY is 1 while the phase is BUSY (10_state.md R34, R53). -/
def State.busy (s : State) : Bool := s.phase == .busy

/-- The word STATUS reads (10_state.md R34). -/
def statusWord (s : State) : Word :=
  0#20 ++ s.errCode ++ 0#4 ++ BitVec.ofBool s.ovr ++ BitVec.ofBool s.err ++ BitVec.ofBool s.done ++ BitVec.ofBool s.busy

/-- A host write of `v` to STATUS: ones clear DONE, ERR with ERR_CODE, and OVR (10_state.md R35). -/
def writeStatus (v : Word) (s : State) : State :=
  { s with
    done := s.done && !v.getLsbD 1
    err := s.err && !v.getLsbD 2
    errCode := if v.getLsbD 2 then 0 else s.errCode
    ovr := s.ovr && !v.getLsbD 3 }

/-- Acceptance clears DONE, ERR and ERR_CODE (30_encoding.md R110). -/
def clearForAcceptance (s : State) : State := { s with done := false, err := false, errCode := 0 }

/-- An error sets ERR and ERR_CODE (60_exceptions.md R245, R247). -/
def raiseError (e : ErrCode) (s : State) : State := { s with err := true, errCode := e.code }

/-- The interrupt output (60_exceptions.md R249): DONE_IE is bit 0 of IRQ_EN, ERR_IE bit 1 (10_state.md R37). -/
def irq (s : State) : Bool := (s.done && s.irqEn.getLsbD 0) || (s.err && s.irqEn.getLsbD 1)

end Sys2Proof.Machine
end

