-- ==== Sys2Proof/Machine/Memory.lean ====
section
/-! DEFINITION. The memory space: reads, writes and the canonical form (spec 20_memory.md R70 to R73, 00_scope.md R14). -/

namespace Sys2Proof.Machine

/-- DESIGN CHOICE, unsafe (log 3). What a byte of memory that nothing has written reads as. -/
def unlistedByte : Byte := 0

/-- The byte at a key. -/
def Memory.lookup : Memory → Nat → Byte
  | [], _ => unlistedByte
  | c :: m, k => if c.1 = k then c.2 else Memory.lookup m k

/-- The byte at an address (00_scope.md R14). -/
def Memory.read8 (m : Memory) (a : Word) : Byte := Memory.lookup m a.toNat

/-- The 16-bit value at an address, little-endian (20_memory.md R72). -/
def Memory.read16 (m : Memory) (a : Word) : BitVec 16 := m.read8 (a + 1) ++ m.read8 a

/-- Puts a byte at a key, in the canonical form: the keys stay rising, and a byte equal to what an unlisted address reads as is
not listed. -/
def Memory.store : Memory → Nat → Byte → Memory
  | [], k, b => if b = unlistedByte then [] else [(k, b)]
  | c :: m, k, b =>
    if k < c.1 then (if b = unlistedByte then c :: m else (k, b) :: c :: m)
    else if k = c.1 then (if b = unlistedByte then m else (k, b) :: m)
    else c :: Memory.store m k b

/-- Writes one byte (00_scope.md R14). -/
def Memory.write8 (m : Memory) (a : Word) (b : Byte) : Memory := Memory.store m a.toNat b

/-- Performs byte stores in order. -/
def Memory.writeAll (m : Memory) (ws : List ByteStore) : Memory :=
  ws.foldl (fun m w => m.write8 w.1 w.2) m

/-- The canonical form: addresses of the 32-bit space, strictly rising, and no entry equal to what an unlisted address reads
as. -/
abbrev Memory.wf (m : Memory) : Prop :=
  m.Pairwise (fun c d => c.1 < d.1) ∧ ∀ c ∈ m, c.1 < 2 ^ 32 ∧ c.2 ≠ unlistedByte

end Sys2Proof.Machine
end

