-- ==== Sys2Proof/Syntax.lean ====
section
/-! DEFINITION. The command set: modes, kinds, the four datapaths, the raw fields of a command word, and the twenty commands (spec 30_encoding.md R101 to R104). -/

namespace Sys2Proof

/-- The four legal combinations of CMPD, AVG and JNT (30_encoding.md R103). -/
inductive Mode where
  /-- Single reference: writes 8-bit DST samples. -/
  | sr
  /-- Compound first pass: writes 16-bit CBUF elements. -/
  | cmp
  /-- Compound second pass, simple average: reads CBUF and writes DST. -/
  | avg
  /-- Compound second pass, distance weights: reads CBUF and writes DST. -/
  | jnt
deriving DecidableEq, Repr

/-- The legal values of the KIND field (30_encoding.md R101, R102). -/
inductive Kind where
  | copy
  | x
  | y
  | twoD
  | auto
deriving DecidableEq, Repr

/-- A resolved kind: one of the four datapaths that AUTO picks from (30_encoding.md R108, R112). -/
inductive Path where
  | copy
  | x
  | y
  | twoD
deriving DecidableEq, Repr

/-- The fields of a 32-bit command word, legal or not (30_encoding.md R101). -/
structure CommandFields where
  /-- Bits [2:0]. -/
  kind : BitVec 3
  /-- Bit [3]. -/
  cmpd : Bool
  /-- Bit [4]. -/
  avg : Bool
  /-- Bit [5]. -/
  jnt : Bool
  /-- Bits [31:6]. -/
  reserved : BitVec 26
deriving DecidableEq, Repr

/-- The complete command set, one constructor per row of the opcode map (30_encoding.md R104). A command has no operand
fields: its operands are the configuration registers, read through the snapshot (R100). -/
inductive Instr where
  /-- `conv.sr.copy` (42_single_ref.md R191). -/
  | srCopy
  /-- `conv.sr.x` (42_single_ref.md R192). -/
  | srX
  /-- `conv.sr.y` (42_single_ref.md R193). -/
  | srY
  /-- `conv.sr.2d` (42_single_ref.md R194). -/
  | srTwoD
  /-- `conv.sr.auto` (42_single_ref.md R195). -/
  | srAuto
  /-- `conv.cmp.copy` (43_compound.md R217). -/
  | cmpCopy
  /-- `conv.cmp.x` (43_compound.md R218). -/
  | cmpX
  /-- `conv.cmp.y` (43_compound.md R219). -/
  | cmpY
  /-- `conv.cmp.2d` (43_compound.md R220). -/
  | cmpTwoD
  /-- `conv.cmp.auto` (43_compound.md R221). -/
  | cmpAuto
  /-- `conv.avg.copy` (43_compound.md R222). -/
  | avgCopy
  /-- `conv.avg.x` (43_compound.md R223). -/
  | avgX
  /-- `conv.avg.y` (43_compound.md R224). -/
  | avgY
  /-- `conv.avg.2d` (43_compound.md R225). -/
  | avgTwoD
  /-- `conv.avg.auto` (43_compound.md R226). -/
  | avgAuto
  /-- `conv.jnt.copy` (43_compound.md R227). -/
  | jntCopy
  /-- `conv.jnt.x` (43_compound.md R228). -/
  | jntX
  /-- `conv.jnt.y` (43_compound.md R229). -/
  | jntY
  /-- `conv.jnt.2d` (43_compound.md R230). -/
  | jntTwoD
  /-- `conv.jnt.auto` (43_compound.md R231). -/
  | jntAuto
deriving DecidableEq, Repr

end Sys2Proof
end

