-- ==== Sys2Proof/WellFormed.lean ====
section
/-! DEFINITION. When the fields of a command word are those of a command: the three grounds of 30_encoding.md R105 on which a word is illegal. -/

namespace Sys2Proof

/-- Why a command word is illegal (30_encoding.md R105). -/
inductive FieldProblem where
  /-- One of bits [31:6] is set. -/
  | reservedBits
  /-- KIND is 5, 6 or 7. -/
  | reservedKind
  /-- CMPD, AVG and JNT are one of the four combinations R103 excludes. -/
  | illegalMode
deriving DecidableEq, Repr

/-- A legal mode combination: JNT needs AVG, and AVG needs CMPD (30_encoding.md R103). -/
def CommandFields.modeLegal (f : CommandFields) : Bool :=
  (!f.jnt || f.avg) && (!f.avg || f.cmpd)

/-- The first ground on which the fields are illegal, if any (30_encoding.md R105). -/
def CommandFields.problem (f : CommandFields) : Option FieldProblem :=
  if f.reserved ≠ 0 then some .reservedBits
  else if 5 ≤ f.kind.toNat then some .reservedKind
  else if f.modeLegal then none
  else some .illegalMode

/-- The fields belong to one of the twenty legal words. -/
def CommandFields.wellFormed (f : CommandFields) : Bool := f.problem.isNone

end Sys2Proof
end

