-- ==== Sys2Proof/Decode.lean ====
section
/-! DEFINITION. Decoding a command word, and the encoder beside it (spec 30_encoding.md R101 to R105, R109). -/

namespace Sys2Proof

/-- The fields of a command word (30_encoding.md R101). -/
def fieldsOf (w : Word) : CommandFields where
  kind := w.extractLsb' 0 3
  cmpd := w.getLsbD 3
  avg := w.getLsbD 4
  jnt := w.getLsbD 5
  reserved := w.extractLsb' 6 26

/-- The mode CMPD, AVG and JNT select (30_encoding.md R103). -/
def modeOf : (cmpd avg jnt : Bool) → Option Mode
  | false, false, false => some .sr
  | true, false, false => some .cmp
  | true, true, false => some .avg
  | true, true, true => some .jnt
  | false, true, false => none
  | false, true, true => none
  | false, false, true => none
  | true, false, true => none

/-- The kind the KIND field selects; 5, 6 and 7 are reserved (30_encoding.md R101). -/
def kindOf (k : BitVec 3) : Option Kind :=
  if k = 0 then some .copy
  else if k = 1 then some .x
  else if k = 2 then some .y
  else if k = 3 then some .twoD
  else if k = 4 then some .auto
  else none

/-- The command of a mode and a kind (30_encoding.md R104). -/
def instrOf : Mode → Kind → Instr
  | .sr, .copy => .srCopy
  | .sr, .x => .srX
  | .sr, .y => .srY
  | .sr, .twoD => .srTwoD
  | .sr, .auto => .srAuto
  | .cmp, .copy => .cmpCopy
  | .cmp, .x => .cmpX
  | .cmp, .y => .cmpY
  | .cmp, .twoD => .cmpTwoD
  | .cmp, .auto => .cmpAuto
  | .avg, .copy => .avgCopy
  | .avg, .x => .avgX
  | .avg, .y => .avgY
  | .avg, .twoD => .avgTwoD
  | .avg, .auto => .avgAuto
  | .jnt, .copy => .jntCopy
  | .jnt, .x => .jntX
  | .jnt, .y => .jntY
  | .jnt, .twoD => .jntTwoD
  | .jnt, .auto => .jntAuto

/-- Decoding a command word: one of the twenty commands, or the ground on which the word is illegal
(30_encoding.md R104, R105). -/
def decode (w : Word) : Except FieldProblem Instr :=
  if (fieldsOf w).reserved ≠ 0 then .error .reservedBits
  else
    match kindOf (fieldsOf w).kind with
    | none => .error .reservedKind
    | some k =>
      match modeOf (fieldsOf w).cmpd (fieldsOf w).avg (fieldsOf w).jnt with
      | none => .error .illegalMode
      | some m => .ok (instrOf m k)

/-- The mode of a command (30_encoding.md R104). -/
def Instr.mode : Instr → Mode
  | .srCopy | .srX | .srY | .srTwoD | .srAuto => .sr
  | .cmpCopy | .cmpX | .cmpY | .cmpTwoD | .cmpAuto => .cmp
  | .avgCopy | .avgX | .avgY | .avgTwoD | .avgAuto => .avg
  | .jntCopy | .jntX | .jntY | .jntTwoD | .jntAuto => .jnt

/-- The kind of a command (30_encoding.md R104). -/
def Instr.kind : Instr → Kind
  | .srCopy | .cmpCopy | .avgCopy | .jntCopy => .copy
  | .srX | .cmpX | .avgX | .jntX => .x
  | .srY | .cmpY | .avgY | .jntY => .y
  | .srTwoD | .cmpTwoD | .avgTwoD | .jntTwoD => .twoD
  | .srAuto | .cmpAuto | .avgAuto | .jntAuto => .auto

/-- The value of the KIND field (30_encoding.md R101). -/
def Kind.code : Kind → Word
  | .copy => 0
  | .x => 1
  | .y => 2
  | .twoD => 3
  | .auto => 4

/-- CMPD, AVG and JNT of a mode (30_encoding.md R103). -/
def Mode.bits : Mode → Bool × Bool × Bool
  | .sr => (false, false, false)
  | .cmp => (true, false, false)
  | .avg => (true, true, false)
  | .jnt => (true, true, true)

/-- The encoder, `enc = KIND | CMPD << 3 | AVG << 4 | JNT << 5` (30_encoding.md R104). -/
def encode (i : Instr) : Word :=
  i.kind.code
    ||| ((BitVec.ofBool i.mode.bits.1).setWidth 32 <<< 3)
    ||| ((BitVec.ofBool i.mode.bits.2.1).setWidth 32 <<< 4)
    ||| ((BitVec.ofBool i.mode.bits.2.2).setWidth 32 <<< 5)

/-- A command is well formed when the fields of its word are legal. Commands have no operand fields (30_encoding.md R100),
so this holds of all twenty. -/
abbrev Instr.WellFormed (i : Instr) : Prop := (fieldsOf (encode i)).wellFormed = true

/-- The assembler name of a command, `conv.<mode>.<kind>` (30_encoding.md R109). -/
def Instr.mnemonic (i : Instr) : String :=
  (match i.mode with
    | .sr => "conv.sr."
    | .cmp => "conv.cmp."
    | .avg => "conv.avg."
    | .jnt => "conv.jnt.") ++
  (match i.kind with
    | .copy => "copy"
    | .x => "x"
    | .y => "y"
    | .twoD => "2d"
    | .auto => "auto")

/-- The command the decoder reads from a row's bits `w`, bit 0 the least significant bit of the word. A command is one 32-bit
word with no byte order (30_encoding.md R100, 20_memory.md R72); bits from `nbits` on are 0. -/
def decodeTableWord (nbits w : Nat) : Option Instr :=
  match decode (BitVec.ofNat 32 (w % 2 ^ nbits)) with
  | .ok i => some i
  | .error _ => none

end Sys2Proof
end

