-- ==== Sys2Proof/Machine/FilterBank.lean ====
section
/-! DEFINITION. The interpolation filter bank: kernel ROM, styles, selection, classification and readout (spec 40_filter_bank.md). The tap values are those of the spec, which marks them as general knowledge (log 21). -/

namespace Sys2Proof.Machine

/-- A kernel of 8 signed taps (40_filter_bank.md R130). -/
structure Kernel where
  k0 : Int
  k1 : Int
  k2 : Int
  k3 : Int
  k4 : Int
  k5 : Int
  k6 : Int
  k7 : Int
deriving DecidableEq, Repr

/-- Tap `k` of a kernel; there is none from index 8 on (40_filter_bank.md R130). -/
def Kernel.tap (K : Kernel) : Nat → Int
  | 0 => K.k0
  | 1 => K.k1
  | 2 => K.k2
  | 3 => K.k3
  | 4 => K.k4
  | 5 => K.k5
  | 6 => K.k6
  | 7 => K.k7
  | _ => 0

/-- The taps in order of their index. -/
def Kernel.taps (K : Kernel) : List Int := [K.k0, K.k1, K.k2, K.k3, K.k4, K.k5, K.k6, K.k7]

/-- The kernel with every tap 0: what the readout of a reserved style shows (40_filter_bank.md R143). -/
def Kernel.zero : Kernel := ⟨0, 0, 0, 0, 0, 0, 0, 0⟩

/-- The six styles (40_filter_bank.md R138). -/
inductive Style where
  | regular
  | smooth
  | sharp
  | bilinear
  | regular4
  | smooth4
deriving DecidableEq, Repr

/-- Table REGULAR, phases 0 to 15 (40_filter_bank.md R131). -/
def romRegular : List Kernel := [
  ⟨0, 0, 0, 128, 0, 0, 0, 0⟩,
  ⟨0, 2, -6, 126, 8, -2, 0, 0⟩,
  ⟨0, 2, -10, 122, 18, -4, 0, 0⟩,
  ⟨0, 2, -12, 116, 28, -8, 2, 0⟩,
  ⟨0, 2, -14, 110, 38, -10, 2, 0⟩,
  ⟨0, 2, -14, 102, 48, -12, 2, 0⟩,
  ⟨0, 2, -16, 94, 58, -12, 2, 0⟩,
  ⟨0, 2, -14, 84, 66, -12, 2, 0⟩,
  ⟨0, 2, -14, 76, 76, -14, 2, 0⟩,
  ⟨0, 2, -12, 66, 84, -14, 2, 0⟩,
  ⟨0, 2, -12, 58, 94, -16, 2, 0⟩,
  ⟨0, 2, -12, 48, 102, -14, 2, 0⟩,
  ⟨0, 2, -10, 38, 110, -14, 2, 0⟩,
  ⟨0, 2, -8, 28, 116, -12, 2, 0⟩,
  ⟨0, 0, -4, 18, 122, -10, 2, 0⟩,
  ⟨0, 0, -2, 8, 126, -6, 2, 0⟩]

/-- Table SMOOTH, phases 0 to 15 (40_filter_bank.md R132). -/
def romSmooth : List Kernel := [
  ⟨0, 0, 0, 128, 0, 0, 0, 0⟩,
  ⟨0, 2, 28, 62, 34, 2, 0, 0⟩,
  ⟨0, 0, 26, 62, 36, 4, 0, 0⟩,
  ⟨0, 0, 22, 62, 40, 4, 0, 0⟩,
  ⟨0, 0, 20, 60, 42, 6, 0, 0⟩,
  ⟨0, 0, 18, 58, 44, 8, 0, 0⟩,
  ⟨0, 0, 16, 56, 46, 10, 0, 0⟩,
  ⟨0, -2, 16, 54, 48, 12, 0, 0⟩,
  ⟨0, -2, 14, 52, 52, 14, -2, 0⟩,
  ⟨0, 0, 12, 48, 54, 16, -2, 0⟩,
  ⟨0, 0, 10, 46, 56, 16, 0, 0⟩,
  ⟨0, 0, 8, 44, 58, 18, 0, 0⟩,
  ⟨0, 0, 6, 42, 60, 20, 0, 0⟩,
  ⟨0, 0, 4, 40, 62, 22, 0, 0⟩,
  ⟨0, 0, 4, 36, 62, 26, 0, 0⟩,
  ⟨0, 0, 2, 34, 62, 28, 2, 0⟩]

/-- Table SHARP, phases 0 to 15 (40_filter_bank.md R133). -/
def romSharp : List Kernel := [
  ⟨0, 0, 0, 128, 0, 0, 0, 0⟩,
  ⟨-2, 2, -6, 126, 8, -2, 2, 0⟩,
  ⟨-2, 6, -12, 124, 16, -6, 4, -2⟩,
  ⟨-2, 8, -18, 120, 26, -10, 6, -2⟩,
  ⟨-4, 10, -22, 116, 38, -14, 6, -2⟩,
  ⟨-4, 10, -22, 108, 48, -18, 8, -2⟩,
  ⟨-4, 10, -24, 100, 60, -20, 8, -2⟩,
  ⟨-4, 10, -24, 90, 70, -22, 10, -2⟩,
  ⟨-4, 12, -24, 80, 80, -24, 12, -4⟩,
  ⟨-2, 10, -22, 70, 90, -24, 10, -4⟩,
  ⟨-2, 8, -20, 60, 100, -24, 10, -4⟩,
  ⟨-2, 8, -18, 48, 108, -22, 10, -4⟩,
  ⟨-2, 6, -14, 38, 116, -22, 10, -4⟩,
  ⟨-2, 6, -10, 26, 120, -18, 8, -2⟩,
  ⟨-2, 4, -6, 16, 124, -12, 6, -2⟩,
  ⟨0, 2, -2, 8, 126, -6, 2, -2⟩]

/-- Table BILINEAR, phases 0 to 15 (40_filter_bank.md R134). -/
def romBilinear : List Kernel := [
  ⟨0, 0, 0, 128, 0, 0, 0, 0⟩,
  ⟨0, 0, 0, 120, 8, 0, 0, 0⟩,
  ⟨0, 0, 0, 112, 16, 0, 0, 0⟩,
  ⟨0, 0, 0, 104, 24, 0, 0, 0⟩,
  ⟨0, 0, 0, 96, 32, 0, 0, 0⟩,
  ⟨0, 0, 0, 88, 40, 0, 0, 0⟩,
  ⟨0, 0, 0, 80, 48, 0, 0, 0⟩,
  ⟨0, 0, 0, 72, 56, 0, 0, 0⟩,
  ⟨0, 0, 0, 64, 64, 0, 0, 0⟩,
  ⟨0, 0, 0, 56, 72, 0, 0, 0⟩,
  ⟨0, 0, 0, 48, 80, 0, 0, 0⟩,
  ⟨0, 0, 0, 40, 88, 0, 0, 0⟩,
  ⟨0, 0, 0, 32, 96, 0, 0, 0⟩,
  ⟨0, 0, 0, 24, 104, 0, 0, 0⟩,
  ⟨0, 0, 0, 16, 112, 0, 0, 0⟩,
  ⟨0, 0, 0, 8, 120, 0, 0, 0⟩]

/-- Table REGULAR_4, phases 0 to 15 (40_filter_bank.md R135). -/
def romRegular4 : List Kernel := [
  ⟨0, 0, 0, 128, 0, 0, 0, 0⟩,
  ⟨0, 0, -4, 126, 8, -2, 0, 0⟩,
  ⟨0, 0, -8, 122, 18, -4, 0, 0⟩,
  ⟨0, 0, -10, 116, 28, -6, 0, 0⟩,
  ⟨0, 0, -12, 110, 38, -8, 0, 0⟩,
  ⟨0, 0, -12, 102, 48, -10, 0, 0⟩,
  ⟨0, 0, -14, 94, 58, -10, 0, 0⟩,
  ⟨0, 0, -12, 84, 66, -10, 0, 0⟩,
  ⟨0, 0, -12, 76, 76, -12, 0, 0⟩,
  ⟨0, 0, -10, 66, 84, -12, 0, 0⟩,
  ⟨0, 0, -10, 58, 94, -14, 0, 0⟩,
  ⟨0, 0, -10, 48, 102, -12, 0, 0⟩,
  ⟨0, 0, -8, 38, 110, -12, 0, 0⟩,
  ⟨0, 0, -6, 28, 116, -10, 0, 0⟩,
  ⟨0, 0, -4, 18, 122, -8, 0, 0⟩,
  ⟨0, 0, -2, 8, 126, -4, 0, 0⟩]

/-- Table SMOOTH_4, phases 0 to 15 (40_filter_bank.md R136). -/
def romSmooth4 : List Kernel := [
  ⟨0, 0, 0, 128, 0, 0, 0, 0⟩,
  ⟨0, 0, 30, 62, 34, 2, 0, 0⟩,
  ⟨0, 0, 26, 62, 36, 4, 0, 0⟩,
  ⟨0, 0, 22, 62, 40, 4, 0, 0⟩,
  ⟨0, 0, 20, 60, 42, 6, 0, 0⟩,
  ⟨0, 0, 18, 58, 44, 8, 0, 0⟩,
  ⟨0, 0, 16, 56, 46, 10, 0, 0⟩,
  ⟨0, 0, 14, 54, 48, 12, 0, 0⟩,
  ⟨0, 0, 12, 52, 52, 12, 0, 0⟩,
  ⟨0, 0, 12, 48, 54, 14, 0, 0⟩,
  ⟨0, 0, 10, 46, 56, 16, 0, 0⟩,
  ⟨0, 0, 8, 44, 58, 18, 0, 0⟩,
  ⟨0, 0, 6, 42, 60, 20, 0, 0⟩,
  ⟨0, 0, 4, 40, 62, 22, 0, 0⟩,
  ⟨0, 0, 4, 36, 62, 26, 0, 0⟩,
  ⟨0, 0, 2, 34, 62, 30, 0, 0⟩]

/-- The ROM table of a style (40_filter_bank.md R138). -/
def romTable : Style → List Kernel
  | .regular => romRegular
  | .smooth => romSmooth
  | .sharp => romSharp
  | .bilinear => romBilinear
  | .regular4 => romRegular4
  | .smooth4 => romSmooth4

/-- `KERNEL(style, phase)` (40_filter_bank.md R140). -/
def kernelOf (st : Style) (phase : BitVec 4) : Kernel := (romTable st).getD phase.toNat Kernel.zero

/-- The style a STYLE field encodes; 6 and 7 are reserved (40_filter_bank.md R138). -/
def styleOf (s : BitVec 3) : Option Style :=
  if s = 0 then some .regular
  else if s = 1 then some .smooth
  else if s = 2 then some .sharp
  else if s = 3 then some .bilinear
  else if s = 4 then some .regular4
  else if s = 5 then some .smooth4
  else none

/-- The small-block substitution `EFF(style, size4, n)` (40_filter_bank.md R139). -/
def effStyle (st : Style) (size4 : Bool) (n : Nat) : Style :=
  if size4 = true ∧ n ≤ 4 then
    match st with
    | .regular => .regular4
    | .sharp => .regular4
    | .smooth => .smooth4
    | .bilinear => .bilinear
    | .regular4 => .regular4
    | .smooth4 => .smooth4
  else st

/-- `CLASS(style)`, the tap-count family (40_filter_bank.md R141). -/
def classOf : Style → Nat
  | .bilinear => 2
  | .regular4 => 4
  | .smooth4 => 4
  | .regular => 8
  | .smooth => 8
  | .sharp => 8

/-- The kernel KSEL selects; a reserved style reads as zeros (40_filter_bank.md R143). -/
def readoutKernel (ksel : Word) : Kernel :=
  match styleOf (ksel.extractLsb' 8 3) with
  | some st => kernelOf st (ksel.extractLsb' 0 4)
  | none => Kernel.zero

/-- `KTAPab`: tap `b` in bits [31:16] and tap `a` in bits [15:0], two's complement (40_filter_bank.md R143). -/
def tapPair (a b : Int) : Word := BitVec.ofInt 16 b ++ BitVec.ofInt 16 a

/-- `KINFO`: the class of the selected style, 0 for a reserved style (40_filter_bank.md R144). -/
def readoutInfo (ksel : Word) : Word :=
  match styleOf (ksel.extractLsb' 8 3) with
  | some st => BitVec.ofNat 32 (classOf st)
  | none => 0

/-- A sum of tap products: tap `k` times the `k`-th sample of the window (40_filter_bank.md R140, 41_datapath.md R161). -/
def tapSum (K : Kernel) (x : Nat → Int) : Int :=
  K.k0 * x 0 + K.k1 * x 1 + K.k2 * x 2 + K.k3 * x 3 + K.k4 * x 4 + K.k5 * x 5 + K.k6 * x 6 + K.k7 * x 7

end Sys2Proof.Machine
end

