-- ==== Sys2Proof/Machine/Operands.lean ====
section
/-! DEFINITION. The operands of a command, decoded from SNAP (spec 30_encoding.md R107, R108), its kernels (40_filter_bank.md R140) and its addresses (00_scope.md R16). -/

namespace Sys2Proof

/-- A path that uses the horizontal filter (40_filter_bank.md R145). -/
def Path.usesX : Path → Bool
  | .copy => false
  | .x => true
  | .y => false
  | .twoD => true

/-- A path that uses the vertical filter (40_filter_bank.md R145). -/
def Path.usesY : Path → Bool
  | .copy => false
  | .x => false
  | .y => true
  | .twoD => true

/-- The command writes DST: modes SR, AVG and JNT (60_exceptions.md R243, `WD`). -/
def Mode.writesDst : Mode → Bool
  | .sr => true
  | .cmp => false
  | .avg => true
  | .jnt => true

/-- The command touches CBUF: modes CMP, AVG and JNT (60_exceptions.md R243, `CB`). -/
def Mode.touchesCbuf : Mode → Bool
  | .sr => false
  | .cmp => true
  | .avg => true
  | .jnt => true

/-- The command reads CBUF: modes AVG and JNT (20_memory.md R78). -/
def Mode.readsCbuf : Mode → Bool
  | .sr => false
  | .cmp => false
  | .avg => true
  | .jnt => true

end Sys2Proof

namespace Sys2Proof.Machine

/-- `W`, BLK_SIZE[7:0] (30_encoding.md R107). -/
def Snapshot.w (p : Snapshot) : Nat := (p.regs.blkSize.extractLsb' 0 8).toNat

/-- `H`, BLK_SIZE[23:16] (30_encoding.md R107). -/
def Snapshot.h (p : Snapshot) : Nat := (p.regs.blkSize.extractLsb' 16 8).toNat

/-- `px`, FILT_X[3:0] (30_encoding.md R107). -/
def Snapshot.px (p : Snapshot) : BitVec 4 := p.regs.filtX.extractLsb' 0 4

/-- `sx`, FILT_X[10:8] (30_encoding.md R107). -/
def Snapshot.sx (p : Snapshot) : BitVec 3 := p.regs.filtX.extractLsb' 8 3

/-- `zx`, FILT_X[12] (30_encoding.md R107). -/
def Snapshot.zx (p : Snapshot) : Bool := p.regs.filtX.getLsbD 12

/-- `py`, FILT_Y[3:0] (30_encoding.md R107). -/
def Snapshot.py (p : Snapshot) : BitVec 4 := p.regs.filtY.extractLsb' 0 4

/-- `sy`, FILT_Y[10:8] (30_encoding.md R107). -/
def Snapshot.sy (p : Snapshot) : BitVec 3 := p.regs.filtY.extractLsb' 8 3

/-- `zy`, FILT_Y[12] (30_encoding.md R107). -/
def Snapshot.zy (p : Snapshot) : Bool := p.regs.filtY.getLsbD 12

/-- `r0`, ROUND[3:0] (30_encoding.md R107). -/
def Snapshot.r0 (p : Snapshot) : Nat := (p.regs.round.extractLsb' 0 4).toNat

/-- `r1`, ROUND[11:8] (30_encoding.md R107). -/
def Snapshot.r1 (p : Snapshot) : Nat := (p.regs.round.extractLsb' 8 4).toNat

/-- `fwd`, WEIGHT[4:0] (30_encoding.md R107). -/
def Snapshot.fwd (p : Snapshot) : Nat := (p.regs.weight.extractLsb' 0 5).toNat

/-- `bck`, WEIGHT[12:8] (30_encoding.md R107). -/
def Snapshot.bck (p : Snapshot) : Nat := (p.regs.weight.extractLsb' 8 5).toNat

/-- The source stride in bytes, bits [15:0] (30_encoding.md R107). -/
def Snapshot.srcStride (p : Snapshot) : Nat := (p.regs.srcStride.extractLsb' 0 16).toNat

/-- The destination stride in bytes, bits [15:0] (30_encoding.md R107). -/
def Snapshot.dstStride (p : Snapshot) : Nat := (p.regs.dstStride.extractLsb' 0 16).toNat

/-- The CBUF stride in 16-bit elements, bits [15:0] (30_encoding.md R107). -/
def Snapshot.cbufStride (p : Snapshot) : Nat := (p.regs.cbufStride.extractLsb' 0 16).toNat

/-- `RESOLVE(px, py)` for KIND = AUTO; any other KIND resolves to itself (30_encoding.md R108). -/
def resolve (k : Kind) (px py : BitVec 4) : Path :=
  match k with
  | .copy => .copy
  | .x => .x
  | .y => .y
  | .twoD => .twoD
  | .auto =>
    if px = 0 then (if py = 0 then .copy else .y)
    else (if py = 0 then .x else .twoD)

/-- The resolved kind of a command on a snapshot (30_encoding.md R108). -/
def Snapshot.path (p : Snapshot) (i : Instr) : Path := resolve i.kind p.px p.py

/-- The kernel of a filter register's fields for a block dimension `n`. A reserved style has no kernel (40_filter_bank.md
R138); a command that uses one is refused, and the zero kernel that stands here is never used (log 22). -/
def selectKernel (style : BitVec 3) (size4 : Bool) (n : Nat) (phase : BitVec 4) : Kernel :=
  match styleOf style with
  | some st => kernelOf (effStyle st size4 n) phase
  | none => Kernel.zero

/-- `Kx` (40_filter_bank.md R140). -/
def Snapshot.kx (p : Snapshot) : Kernel := selectKernel p.sx p.zx p.w p.px

/-- `Ky` (40_filter_bank.md R140). -/
def Snapshot.ky (p : Snapshot) : Kernel := selectKernel p.sy p.zy p.h p.py

/-- The address of the reference sample `S(r, c)`, mod 2^32 (00_scope.md R16). -/
def srcAddr (p : Snapshot) (r c : Int) : Word :=
  p.regs.srcBase + BitVec.ofInt 32 (r * (p.srcStride : Int) + c)

/-- `D(r, c)`, mod 2^32 (00_scope.md R16). -/
def dstAddr (p : Snapshot) (r c : Nat) : Word :=
  p.regs.dstBase + BitVec.ofNat 32 (r * p.dstStride + c)

/-- `CB(r, c)`, mod 2^32 (00_scope.md R16). -/
def cbufAddr (p : Snapshot) (r c : Nat) : Word :=
  p.regs.cbufBase + BitVec.ofNat 32 (2 * (r * p.cbufStride + c))

/-- The block positions `0 <= r < H`, `0 <= c < W`, row by row (00_scope.md R16). -/
def blockPositions (p : Snapshot) : List (Nat × Nat) :=
  (List.range p.h).flatMap fun r => (List.range p.w).map fun c => (r, c)

end Sys2Proof.Machine
end

