-- ==== Sys2Proof/Machine/Datapath.lean ====
section
/-! DEFINITION. The fixed-point datapath: constants, filter sums, the 2-D passes through IM, the compound prediction and the blend unit (spec 41_datapath.md, 43_compound.md R212 to R215). -/

namespace Sys2Proof.Machine

/-! ## Constants of a command (41_datapath.md R160) -/

/-- `OB = BD + 2*FILTER_BITS - r0`. -/
def Snapshot.ob (p : Snapshot) : Nat := Config.bitDepth + 2 * Config.filterBits - p.r0

/-- `HOFF = 1 << (BD + FILTER_BITS - 1)`. -/
def hoff : Int := shl 1 (Config.bitDepth + Config.filterBits - 1)

/-- `VOFF = 1 << OB`. -/
def Snapshot.voff (p : Snapshot) : Int := shl 1 p.ob

/-- `RO = (1 << (OB - r1)) + (1 << (OB - r1 - 1))`. -/
def Snapshot.ro (p : Snapshot) : Int := shl 1 (p.ob - p.r1) + shl 1 (p.ob - p.r1 - 1)

/-- `RB = 2*FILTER_BITS - r0 - r1`. -/
def Snapshot.rb (p : Snapshot) : Nat := 2 * Config.filterBits - p.r0 - p.r1

/-! ## Filter sums -/

/-- The reference sample `S(r, c)` (00_scope.md R16). -/
def sample (p : Snapshot) (m : Memory) (r c : Int) : Int := ((m.read8 (srcAddr p r c)).toNat : Int)

/-- `HS(r, c)` (41_datapath.md R161): tap `k` multiplies the sample at column offset `k - 3` (20_memory.md R75). -/
def hs (p : Snapshot) (m : Memory) (r c : Int) : Int :=
  tapSum p.kx fun k => sample p m r (c - Config.tapOrigin + k)

/-- `VS(r, c)` (41_datapath.md R162). -/
def vs (p : Snapshot) (m : Memory) (r c : Int) : Int :=
  tapSum p.ky fun k => sample p m (r - Config.tapOrigin + k) c

/-! ## The 2-D passes -/

/-- The value of the horizontal pass at an entry of IM, before it is stored (41_datapath.md R163). -/
def imValue (p : Snapshot) (m : Memory) (i c : Int) : Int := roundShift (hoff + hs p m i c) p.r0

/-- The rows -3 .. H+3 of the vertical window (41_datapath.md R163, 20_memory.md R76). -/
def windowRows (p : Snapshot) : List Int := (List.range (p.h + (Config.ntaps - 1))).map fun (k : Nat) => (k : Int) - Config.tapOrigin

/-- The columns -3 .. W+3 of the horizontal window (20_memory.md R76). -/
def windowCols (p : Snapshot) : List Int := (List.range (p.w + (Config.ntaps - 1))).map fun (k : Nat) => (k : Int) - Config.tapOrigin

/-- The rows 0 .. H-1 of the block. -/
def blockRows (p : Snapshot) : List Int := (List.range p.h).map fun (k : Nat) => (k : Int)

/-- The columns 0 .. W-1 of the block. -/
def blockCols (p : Snapshot) : List Int := (List.range p.w).map fun (k : Nat) => (k : Int)

/-- The entries the horizontal pass writes, each stored as signed 16 bits (41_datapath.md R163). -/
def imCells (p : Snapshot) (m : Memory) : List ImCell :=
  (windowRows p).flatMap fun i => (blockCols p).map fun c => ⟨i, c, BitVec.ofInt 16 (imValue p m i c)⟩

/-- The horizontal pass of a 2-D command: it fills IM (41_datapath.md R163). -/
def horizontalPass (s : State) : State := { s with im := imCells s.snap s.mem }

/-- The entry `IM[i][c]`. An entry the command has not written is a free value (10_state.md R54; log 5). -/
def imAt (s : State) (i c : Int) : Int :=
  match s.im.find? fun e => e.row == i && e.col == c with
  | some e => e.val.toInt
  | none => (Config.freeIm s.draws i c).toInt

/-- `V2(r, c)` (41_datapath.md R165). -/
def v2 (s : State) (r c : Int) : Int :=
  s.snap.voff + tapSum s.snap.ky fun k => imAt s (r - Config.tapOrigin + k) c

/-- `VR(r, c) = ROUND(V2(r, c), r1)` (41_datapath.md R166). -/
def vr (s : State) (r c : Int) : Int := roundShift (v2 s r c) s.snap.r1

/-! ## The compound prediction P (43_compound.md R212 to R215) -/

/-- `P` for kind COPY (43_compound.md R212). -/
def predCopy (p : Snapshot) (m : Memory) (r c : Int) : Int := shl (sample p m r c) p.rb + p.ro

/-- `P` for kind X (43_compound.md R213). -/
def predX (p : Snapshot) (m : Memory) (r c : Int) : Int :=
  shl (roundShift (hs p m r c) p.r0) (Config.filterBits - p.r1) + p.ro

/-- `P` for kind Y (43_compound.md R214). -/
def predY (p : Snapshot) (m : Memory) (r c : Int) : Int :=
  roundShift (shl (vs p m r c) (Config.filterBits - p.r0)) p.r1 + p.ro

/-- `P` for kind 2D, over a state whose IM the horizontal pass has filled (43_compound.md R215). -/
def predTwoD (s : State) (r c : Int) : Int := vr s r c

/-! ## The single-reference values (42_single_ref.md R191 to R194) -/

/-- The sample `conv.sr.x` writes (42_single_ref.md R192). -/
def singleX (p : Snapshot) (m : Memory) (r c : Int) : Int :=
  clip8 (roundShift (roundShift (hs p m r c) p.r0) (Config.filterBits - p.r0))

/-- The sample `conv.sr.y` writes (42_single_ref.md R193). -/
def singleY (p : Snapshot) (m : Memory) (r c : Int) : Int :=
  clip8 (roundShift (vs p m r c) Config.filterBits)

/-- The sample `conv.sr.2d` writes, over a state whose IM the horizontal pass has filled (42_single_ref.md R194). -/
def singleTwoD (s : State) (r c : Int) : Int :=
  clip8 (roundShift (vr s r c - s.snap.ro) s.snap.rb)

/-! ## The blend unit (41_datapath.md R167 to R170) -/

/-- The existing operand `a`, an unsigned CBUF element (41_datapath.md R167). -/
def existing (p : Snapshot) (m : Memory) (r c : Nat) : Int := ((m.read16 (cbufAddr p r c)).toNat : Int)

/-- The simple average, truncating (41_datapath.md R168). -/
def blendAvg (a b : Int) : Int := asr (a + b) 1

/-- The weighted average, truncating: `fwd` weights the existing operand and `bck` the new one (41_datapath.md R169). -/
def blendJnt (p : Snapshot) (a b : Int) : Int :=
  asr (a * (p.fwd : Int) + b * (p.bck : Int)) Config.distPrecisionBits

/-- The blend output: de-bias, final rounding shift and saturation (41_datapath.md R170). -/
def blendOut (p : Snapshot) (t : Int) : Int := clip8 (roundShift (t - p.ro) p.rb)

/-! ## The writes of a block (20_memory.md R77) -/

/-- The loop over the block positions. -/
def forBlock (p : Snapshot) (f : Nat → Nat → List ByteStore) : List ByteStore :=
  (blockPositions p).flatMap fun q => f q.1 q.2

/-- `MemWrite(D(r, c), 1, v)`. -/
def writeDst (p : Snapshot) (r c : Nat) (v : Int) : List ByteStore := memWrite (dstAddr p r c) 1 v

/-- `MemWrite(CB(r, c), 2, v)`. -/
def writeCbuf (p : Snapshot) (r c : Nat) (v : Int) : List ByteStore := memWrite (cbufAddr p r c) 2 v

end Sys2Proof.Machine
end

