-- ==== Sys2Proof/Machine/Footprint.lean ====
section
/-! DEFINITION. What a command reads and writes, which accesses the platform refuses, and when the footprints overlap (spec 20_memory.md R75 to R78; 60_exceptions.md R247; 70_reset_and_hazards.md R276, R277). -/

namespace Sys2Proof.Machine

/-- The rows of the full window (20_memory.md R76). -/
def fullRows (path : Path) (p : Snapshot) : List Int := if path.usesY then windowRows p else blockRows p

/-- The columns of the full window (20_memory.md R76). -/
def fullCols (path : Path) (p : Snapshot) : List Int := if path.usesX then windowCols p else blockCols p

/-- The full window: row and column of every sample a command of this kind may read (20_memory.md R76). -/
def fullWindow (path : Path) (p : Snapshot) : List (Int × Int) :=
  (fullRows path p).flatMap fun r => (fullCols path p).map fun c => (r, c)

/-- A sample is multiplied by a non-zero tap of `Kx` for some output column (20_memory.md R75, R76). -/
def neededByX (p : Snapshot) (c : Int) : Bool :=
  (blockCols p).any fun o => (List.range 8).any fun k => c == o - Config.tapOrigin + k && p.kx.tap k != 0

/-- A sample is multiplied by a non-zero tap of `Ky` for some output row (20_memory.md R75, R76). -/
def neededByY (p : Snapshot) (r : Int) : Bool :=
  (blockRows p).any fun o => (List.range 8).any fun k => r == o - Config.tapOrigin + k && p.ky.tap k != 0

/-- DEDUCED, unsafe (log 8). The needed window: the samples multiplied by a non-zero tap. In a 2-D command it is `Kx` that
multiplies samples, on every row of the window (20_memory.md R76, 41_datapath.md R163, 42_single_ref.md R194). -/
def needed (path : Path) (p : Snapshot) (q : Int × Int) : Bool :=
  match path with
  | .copy => true
  | .x => neededByX p q.2
  | .y => neededByY p q.1
  | .twoD => neededByX p q.2

/-- The bytes of the reference window (20_memory.md R76). -/
def windowBytes (path : Path) (p : Snapshot) : List Word := (fullWindow path p).map fun q => srcAddr p q.1 q.2

/-- The CBUF elements of the block (20_memory.md R77, R78). -/
def cbufElements (p : Snapshot) : List Word := (blockPositions p).map fun q => cbufAddr p q.1 q.2

/-- The bytes of the CBUF block. -/
def cbufBytes (p : Snapshot) : List Word := (cbufElements p).flatMap fun a => [a, a + 1]

/-- The bytes of the DST block (20_memory.md R77). -/
def dstBytes (p : Snapshot) : List Word := (blockPositions p).map fun q => dstAddr p q.1 q.2

/-- The read footprint: the reference window, and the CBUF block for AVG and JNT (20_memory.md R76, R78). -/
def readFootprint (i : Instr) (p : Snapshot) : List Word :=
  windowBytes (p.path i) p ++ (if i.mode.readsCbuf then cbufBytes p else [])

/-- The write footprint: the DST block for SR, AVG and JNT, the CBUF block for CMP (20_memory.md R77). -/
def writeFootprint (i : Instr) (p : Snapshot) : List Word :=
  if i.mode.writesDst then dstBytes p else cbufBytes p

/-- The write footprint meets the read footprint (70_reset_and_hazards.md R277; log 10). -/
def overlaps (i : Instr) (p : Snapshot) : Bool :=
  (writeFootprint i p).any fun a => (readFootprint i p).contains a

/-- An address lies in a range. -/
def AddrRange.holds (g : AddrRange) (a : Word) : Bool := decide (g.lo ≤ a) && decide (a ≤ g.hi)

/-- A buffer of the command lies in a region with read side effects (20_memory.md R79, 70_reset_and_hazards.md R276). -/
def touchesDevice (gs : List AddrRange) (i : Instr) (p : Snapshot) : Bool :=
  !gs.isEmpty && (readFootprint i p ++ writeFootprint i p).any fun a => gs.any fun g => g.holds a

/-- A host store that is not visible yet falls into the read footprint (20_memory.md R84). -/
def awaitsPosted (posted : List ByteStore) (i : Instr) (p : Snapshot) : Bool :=
  posted.any fun w => (readFootprint i p).contains w.1

/-- `BUS_OK(addr, width, dir)` (60_exceptions.md R247). -/
def busOk (holes : List BusHole) (a : Word) (width : Nat) (dir : Dir) : Bool :=
  !holes.any fun h => h.width == width && h.dir == dir && decide (h.lo ≤ a) && decide (a ≤ h.hi)

/-- The platform refuses a read of a reference sample: one of the needed window, or one outside it that this command reads
(20_memory.md R76; log 7). -/
def refusesSample (path : Path) (s : State) : Bool :=
  (fullWindow path s.snap).any fun q =>
    !busOk s.busHoles (srcAddr s.snap q.1 q.2) 1 .read &&
      (needed path s.snap q || Config.readsExtra s.draws q.1 q.2)

/-- The platform refuses a read of a CBUF element (20_memory.md R78). -/
def refusesCbufRead (s : State) : Bool :=
  (cbufElements s.snap).any fun a => !busOk s.busHoles a 2 .read

/-- The platform refuses a write of the write footprint (20_memory.md R77). -/
def refusesWrite (mode : Mode) (s : State) : Bool :=
  if mode.writesDst then (dstBytes s.snap).any fun a => !busOk s.busHoles a 1 .write
  else (cbufElements s.snap).any fun a => !busOk s.busHoles a 2 .write

/-- Some access of the command in flight is refused (60_exceptions.md R247; log 24). -/
def busRefuses (i : Instr) (s : State) : Bool :=
  refusesSample (s.snap.path i) s || (i.mode.readsCbuf && refusesCbufRead s) || refusesWrite i.mode s

end Sys2Proof.Machine
end

