-- ==== Sys2Proof/Machine/Ops.lean ====
section
/-! DEFINITION. The command lifecycle: the checks, acceptance, the configuration error, overrun, the start, the bus error and completion (spec 30_encoding.md R110, R111; 60_exceptions.md R243 to R248). SCE has no traps: its errors are these operations, and it returns from none (60_exceptions.md R251). -/

namespace Sys2Proof.Machine

/-! ## The checks (60_exceptions.md R243) -/

/-- SIZE. -/
def sizeFails (p : Snapshot) : Bool := !(1 ≤ p.w && p.w ≤ Config.maxW && 1 ≤ p.h && p.h ≤ Config.maxH)

/-- FILTER: a filter that the resolved kind uses has a reserved style. -/
def filterFails (path : Path) (p : Snapshot) : Bool :=
  (path.usesX && (styleOf p.sx).isNone) || (path.usesY && (styleOf p.sy).isNone)

/-- ROUND: the legal set of the mode. -/
def roundFails (mode : Mode) (p : Snapshot) : Bool :=
  match mode with
  | .sr => !(1 ≤ p.r0 && p.r0 ≤ 7 && p.r0 + p.r1 == 14)
  | .cmp => !(1 ≤ p.r0 && p.r0 ≤ 7 && 1 ≤ p.r1 && p.r1 ≤ 7 && 8 ≤ p.r0 + p.r1)
  | .avg => !(1 ≤ p.r0 && p.r0 ≤ 7 && 1 ≤ p.r1 && p.r1 ≤ 7 && 8 ≤ p.r0 + p.r1)
  | .jnt => !(1 ≤ p.r0 && p.r0 ≤ 7 && 1 ≤ p.r1 && p.r1 ≤ 7 && 8 ≤ p.r0 + p.r1)

/-- WEIGHT. -/
def weightFails (mode : Mode) (p : Snapshot) : Bool := mode == .jnt && p.fwd + p.bck != 16

/-- STRIDE. -/
def strideFails (mode : Mode) (p : Snapshot) : Bool :=
  decide (1 < p.h) &&
    ((mode.writesDst && decide (p.dstStride < p.w)) || (mode.touchesCbuf && decide (p.cbufStride < p.w)))

/-- ALIGN. -/
def alignFails (mode : Mode) (p : Snapshot) : Bool := mode.touchesCbuf && p.regs.cbufBase.getLsbD 0

/-- The checks of a legal word, in the priority order of 60_exceptions.md R244. -/
def checkInstr (i : Instr) (p : Snapshot) : Option ErrCode :=
  if sizeFails p then some .size
  else if filterFails (p.path i) p then some .filter
  else if roundFails i.mode p then some .round
  else if weightFails i.mode p then some .weight
  else if strideFails i.mode p then some .stride
  else if alignFails i.mode p then some .align
  else none

/-- `CHECK(SNAP)` (60_exceptions.md R243, R244). For an illegal word only ILLEGAL_CMD is evaluated (R242). -/
def check (p : Snapshot) : Option ErrCode :=
  match decode p.cmd with
  | .error _ => some .illegalCmd
  | .ok i => checkInstr i p

/-! ## Issue and acceptance (30_encoding.md R110) -/

/-- The snapshot that acceptance of a word takes (10_state.md R56). -/
def State.snapshotWith (s : State) (v : Word) : Snapshot := { regs := s.regs, cmd := v }

/-- A CMD write while BUSY: dropped, OVR set (60_exceptions.md R246). -/
def overrun (s : State) : State := { s with ovr := true }

/-- Acceptance of a word, before the checks (30_encoding.md R110). -/
def accept (v : Word) (s : State) : State :=
  { clearForAcceptance s with
    cmd := v
    snap := s.snapshotWith v }

/-- A configuration error: ERR and ERR_CODE, and nothing else (60_exceptions.md R245). -/
def configError (e : ErrCode) (s : State) : State := raiseError e s

/-- The command in flight begins: the phase becomes BUSY (30_encoding.md R110). The model notes here whether the spec leaves the
results unspecified already (70_reset_and_hazards.md R276, R277; log 9). -/
def start (i : Instr) (s : State) : State :=
  { s with
    phase := .busy
    tainted := overlaps i s.snap || awaitsPosted s.posted i s.snap || touchesDevice s.deviceRegions i s.snap
    raced := [] }

/-- A host write of any word to CMD, up to the start of the command or its refusal (30_encoding.md R110). -/
def issue (v : Word) (s : State) : State :=
  match s.phase with
  | .busy => overrun s
  | .idle =>
    match decode v with
    | .error _ => configError .illegalCmd (accept v s)
    | .ok i =>
      match checkInstr i (s.snapshotWith v) with
      | some e => configError e (accept v s)
      | none => start i (accept v s)

/-! ## The end of a command -/

/-- Any value in the bytes of a list of addresses (log 9). -/
def freeStores (draw : Nat) (as : List Word) : List ByteStore := as.map fun a => (a, Config.anyByte draw a)

/-- The engine leaves BUSY with memory `m`, having written the bytes `as`: IM is freed (10_state.md R54), the host may hold older
copies of those bytes (20_memory.md R83; log 29), and the model's notes on the command are dropped. -/
def retire (m : Memory) (as : List Word) (s : State) : State :=
  { s with
    phase := .idle
    im := []
    mem := m
    stale := s.stale ++ as
    tainted := false
    raced := []
    draws := s.draws + 1 }

/-- A bus error: the write footprint holds any value, and the error is reported (60_exceptions.md R247). -/
def busError (i : Instr) (s : State) : State :=
  raiseError .bus
    (retire (s.mem.writeAll (freeStores s.draws (writeFootprint i s.snap))) (writeFootprint i s.snap) s)

/-- The other byte of the element a byte of the write footprint belongs to: a CBUF element is two bytes at an even address
(20_memory.md R73, R74), a DST sample is one byte. -/
def elementMate (mode : Mode) (a : Word) : Word := if mode.writesDst then a else a ^^^ 1

/-- Another agent stored to the element of this byte while the command ran (70_reset_and_hazards.md R278; log 18). -/
def racedElement (mode : Mode) (raced : List Word) (a : Word) : Bool :=
  raced.contains a || raced.contains (elementMate mode a)

/-- The bytes the command stores: its computed results, or any value where the spec leaves the results unspecified
(70_reset_and_hazards.md R276 to R278; log 9). -/
def settle (i : Instr) (s : State) (ws : List ByteStore) : List ByteStore :=
  if s.tainted then freeStores s.draws (ws.map Prod.fst)
  else ws.map fun w => if racedElement i.mode s.raced w.1 then (w.1, Config.anyByte s.draws w.1) else w

/-- Memory after the command in flight has stored its results. -/
def resultMemory (i : Instr) (ws : List ByteStore) (s : State) : Memory := s.mem.writeAll (settle i s ws)

/-- Completion: every write performed, phase IDLE, DONE set (60_exceptions.md R248). -/
def complete (i : Instr) (ws : List ByteStore) (s : State) : State :=
  { retire (resultMemory i ws s) (writeFootprint i s.snap) s with done := true }

/-- Execution of the command in flight to its end, from the byte stores its rule computes (30_encoding.md R111). -/
def finish (i : Instr) (pass : State → List ByteStore) (s : State) : State :=
  if busRefuses i s then busError i s else complete i (pass s) s

/-- The end of the command in flight is the next event: it is named next, or no other event is left, and the command ends after
a finite time (10_state.md R53; log 2). -/
def engineNext : List Event → Bool
  | [] => true
  | .engine :: _ => true
  | _ :: _ => false

/-- The events after that one. -/
def afterEngine : List Event → List Event
  | .engine :: es => es
  | es => es

/-- The meaning of an issued command: overrun when BUSY; else acceptance, and on a legal configuration the start of execution.
Where the end of the command is the very next event, it is part of the same step (70_reset_and_hazards.md R282; log 2);
otherwise the command is in flight and other events come first. -/
def command (i : Instr) (pass : State → List ByteStore) (s : State) : State :=
  match s.phase with
  | .busy => overrun s
  | .idle =>
    match checkInstr i (s.snapshotWith (encode i)) with
    | some e => configError e (accept (encode i) s)
    | none =>
      if engineNext s.events then
        finish i pass { start i (accept (encode i) s) with events := afterEngine s.events }
      else start i (accept (encode i) s)

end Sys2Proof.Machine
end

