-- ==== Sys2Proof/Machine/CompoundAverage.lean ====
section
/-! DEFINITION. The compound second pass with simple average, conv.avg.* (spec 43_compound.md R222 to R226). -/

namespace Sys2Proof.Machine

/-- The byte stores of `conv.avg.copy` (43_compound.md R222). -/
def avgCopyPass (s : State) : List ByteStore :=
  forBlock s.snap fun r c =>
    writeDst s.snap r c (blendOut s.snap (blendAvg (existing s.snap s.mem r c) (predCopy s.snap s.mem r c)))

/-- `conv.avg.copy` (43_compound.md R222). -/
def execAvgCopy (s : State) : Host.Outcome State Fault Refusal :=
  .next (command .avgCopy avgCopyPass s)

/-- The byte stores of `conv.avg.x` (43_compound.md R223). -/
def avgXPass (s : State) : List ByteStore :=
  forBlock s.snap fun r c =>
    writeDst s.snap r c (blendOut s.snap (blendAvg (existing s.snap s.mem r c) (predX s.snap s.mem r c)))

/-- `conv.avg.x` (43_compound.md R223). -/
def execAvgX (s : State) : Host.Outcome State Fault Refusal :=
  .next (command .avgX avgXPass s)

/-- The byte stores of `conv.avg.y` (43_compound.md R224). -/
def avgYPass (s : State) : List ByteStore :=
  forBlock s.snap fun r c =>
    writeDst s.snap r c (blendOut s.snap (blendAvg (existing s.snap s.mem r c) (predY s.snap s.mem r c)))

/-- `conv.avg.y` (43_compound.md R224). -/
def execAvgY (s : State) : Host.Outcome State Fault Refusal :=
  .next (command .avgY avgYPass s)

/-- The byte stores of `conv.avg.2d` (43_compound.md R225). -/
def avgTwoDPass (s : State) : List ByteStore :=
  forBlock s.snap fun r c =>
    writeDst s.snap r c (blendOut s.snap (blendAvg (existing s.snap s.mem r c) (predTwoD (horizontalPass s) r c)))

/-- `conv.avg.2d` (43_compound.md R225). -/
def execAvgTwoD (s : State) : Host.Outcome State Fault Refusal :=
  .next (command .avgTwoD avgTwoDPass s)

/-- The byte stores of `conv.avg.auto` (43_compound.md R226). -/
def avgAutoPass (s : State) : List ByteStore :=
  match resolve .auto s.snap.px s.snap.py with
  | .copy => avgCopyPass s
  | .x => avgXPass s
  | .y => avgYPass s
  | .twoD => avgTwoDPass s

/-- `conv.avg.auto` (43_compound.md R226). -/
def execAvgAuto (s : State) : Host.Outcome State Fault Refusal :=
  .next (command .avgAuto avgAutoPass s)

end Sys2Proof.Machine
end

