-- ==== Sys2Proof/Machine/CompoundFirst.lean ====
section
/-! DEFINITION. The compound first pass conv.cmp.* (spec 43_compound.md R217 to R221). -/

namespace Sys2Proof.Machine

/-- The byte stores of `conv.cmp.copy` (43_compound.md R217). -/
def cmpCopyPass (s : State) : List ByteStore :=
  forBlock s.snap fun r c => writeCbuf s.snap r c (predCopy s.snap s.mem r c)

/-- `conv.cmp.copy` (43_compound.md R217). -/
def execCmpCopy (s : State) : Host.Outcome State Fault Refusal :=
  .next (command .cmpCopy cmpCopyPass s)

/-- The byte stores of `conv.cmp.x` (43_compound.md R218). -/
def cmpXPass (s : State) : List ByteStore :=
  forBlock s.snap fun r c => writeCbuf s.snap r c (predX s.snap s.mem r c)

/-- `conv.cmp.x` (43_compound.md R218). -/
def execCmpX (s : State) : Host.Outcome State Fault Refusal :=
  .next (command .cmpX cmpXPass s)

/-- The byte stores of `conv.cmp.y` (43_compound.md R219). -/
def cmpYPass (s : State) : List ByteStore :=
  forBlock s.snap fun r c => writeCbuf s.snap r c (predY s.snap s.mem r c)

/-- `conv.cmp.y` (43_compound.md R219). -/
def execCmpY (s : State) : Host.Outcome State Fault Refusal :=
  .next (command .cmpY cmpYPass s)

/-- The byte stores of `conv.cmp.2d` (43_compound.md R220). -/
def cmpTwoDPass (s : State) : List ByteStore :=
  forBlock s.snap fun r c => writeCbuf s.snap r c (predTwoD (horizontalPass s) r c)

/-- `conv.cmp.2d` (43_compound.md R220). -/
def execCmpTwoD (s : State) : Host.Outcome State Fault Refusal :=
  .next (command .cmpTwoD cmpTwoDPass s)

/-- The byte stores of `conv.cmp.auto` (43_compound.md R221). -/
def cmpAutoPass (s : State) : List ByteStore :=
  match resolve .auto s.snap.px s.snap.py with
  | .copy => cmpCopyPass s
  | .x => cmpXPass s
  | .y => cmpYPass s
  | .twoD => cmpTwoDPass s

/-- `conv.cmp.auto` (43_compound.md R221). -/
def execCmpAuto (s : State) : Host.Outcome State Fault Refusal :=
  .next (command .cmpAuto cmpAutoPass s)

end Sys2Proof.Machine
end

