-- ==== Sys2Proof/Machine/CompoundWeighted.lean ====
section
/-! DEFINITION. The compound second pass with distance weights, conv.jnt.* (spec 43_compound.md R227 to R231). -/

namespace Sys2Proof.Machine

/-- The byte stores of `conv.jnt.copy` (43_compound.md R227). -/
def jntCopyPass (s : State) : List ByteStore :=
  forBlock s.snap fun r c =>
    writeDst s.snap r c (blendOut s.snap (blendJnt s.snap (existing s.snap s.mem r c) (predCopy s.snap s.mem r c)))

/-- `conv.jnt.copy` (43_compound.md R227). -/
def execJntCopy (s : State) : Host.Outcome State Fault Refusal :=
  .next (command .jntCopy jntCopyPass s)

/-- The byte stores of `conv.jnt.x` (43_compound.md R228). -/
def jntXPass (s : State) : List ByteStore :=
  forBlock s.snap fun r c =>
    writeDst s.snap r c (blendOut s.snap (blendJnt s.snap (existing s.snap s.mem r c) (predX s.snap s.mem r c)))

/-- `conv.jnt.x` (43_compound.md R228). -/
def execJntX (s : State) : Host.Outcome State Fault Refusal :=
  .next (command .jntX jntXPass s)

/-- The byte stores of `conv.jnt.y` (43_compound.md R229). -/
def jntYPass (s : State) : List ByteStore :=
  forBlock s.snap fun r c =>
    writeDst s.snap r c (blendOut s.snap (blendJnt s.snap (existing s.snap s.mem r c) (predY s.snap s.mem r c)))

/-- `conv.jnt.y` (43_compound.md R229). -/
def execJntY (s : State) : Host.Outcome State Fault Refusal :=
  .next (command .jntY jntYPass s)

/-- The byte stores of `conv.jnt.2d` (43_compound.md R230). -/
def jntTwoDPass (s : State) : List ByteStore :=
  forBlock s.snap fun r c =>
    writeDst s.snap r c (blendOut s.snap (blendJnt s.snap (existing s.snap s.mem r c) (predTwoD (horizontalPass s) r c)))

/-- `conv.jnt.2d` (43_compound.md R230). -/
def execJntTwoD (s : State) : Host.Outcome State Fault Refusal :=
  .next (command .jntTwoD jntTwoDPass s)

/-- The byte stores of `conv.jnt.auto` (43_compound.md R231). -/
def jntAutoPass (s : State) : List ByteStore :=
  match resolve .auto s.snap.px s.snap.py with
  | .copy => jntCopyPass s
  | .x => jntXPass s
  | .y => jntYPass s
  | .twoD => jntTwoDPass s

/-- `conv.jnt.auto` (43_compound.md R231). -/
def execJntAuto (s : State) : Host.Outcome State Fault Refusal :=
  .next (command .jntAuto jntAutoPass s)

end Sys2Proof.Machine
end

