-- ==== Sys2Proof/Machine/SingleRef.lean ====
section
/-! DEFINITION. The single-reference commands conv.sr.* (spec 42_single_ref.md R191 to R195). -/

namespace Sys2Proof.Machine

/-- The byte stores of `conv.sr.copy` (42_single_ref.md R191). -/
def srCopyPass (s : State) : List ByteStore :=
  forBlock s.snap fun r c => writeDst s.snap r c (sample s.snap s.mem r c)

/-- `conv.sr.copy` (42_single_ref.md R191). -/
def execSrCopy (s : State) : Host.Outcome State Fault Refusal :=
  .next (command .srCopy srCopyPass s)

/-- The byte stores of `conv.sr.x` (42_single_ref.md R192). -/
def srXPass (s : State) : List ByteStore :=
  forBlock s.snap fun r c => writeDst s.snap r c (singleX s.snap s.mem r c)

/-- `conv.sr.x` (42_single_ref.md R192). -/
def execSrX (s : State) : Host.Outcome State Fault Refusal :=
  .next (command .srX srXPass s)

/-- The byte stores of `conv.sr.y` (42_single_ref.md R193). -/
def srYPass (s : State) : List ByteStore :=
  forBlock s.snap fun r c => writeDst s.snap r c (singleY s.snap s.mem r c)

/-- `conv.sr.y` (42_single_ref.md R193). -/
def execSrY (s : State) : Host.Outcome State Fault Refusal :=
  .next (command .srY srYPass s)

/-- The byte stores of `conv.sr.2d` (42_single_ref.md R194). -/
def srTwoDPass (s : State) : List ByteStore :=
  forBlock s.snap fun r c => writeDst s.snap r c (singleTwoD (horizontalPass s) r c)

/-- `conv.sr.2d` (42_single_ref.md R194). -/
def execSrTwoD (s : State) : Host.Outcome State Fault Refusal :=
  .next (command .srTwoD srTwoDPass s)

/-- The byte stores of `conv.sr.auto` (42_single_ref.md R195). -/
def srAutoPass (s : State) : List ByteStore :=
  match resolve .auto s.snap.px s.snap.py with
  | .copy => srCopyPass s
  | .x => srXPass s
  | .y => srYPass s
  | .twoD => srTwoDPass s

/-- `conv.sr.auto` (42_single_ref.md R195). -/
def execSrAuto (s : State) : Host.Outcome State Fault Refusal :=
  .next (command .srAuto srAutoPass s)

end Sys2Proof.Machine
end

