-- ==== Sys2Proof/Machine/Dispatch.lean ====
section
/-! DEFINITION. The dispatch of an issued command to its meaning, one arm per row of the opcode map (spec 30_encoding.md R104). -/

namespace Sys2Proof.Machine

def exec (i : Instr) (s : State) : Host.Outcome State Fault Refusal :=
  match i with
  | .srCopy => Sys2Proof.Machine.execSrCopy s
  | .srX => Sys2Proof.Machine.execSrX s
  | .srY => Sys2Proof.Machine.execSrY s
  | .srTwoD => Sys2Proof.Machine.execSrTwoD s
  | .srAuto => Sys2Proof.Machine.execSrAuto s
  | .cmpCopy => Sys2Proof.Machine.execCmpCopy s
  | .cmpX => Sys2Proof.Machine.execCmpX s
  | .cmpY => Sys2Proof.Machine.execCmpY s
  | .cmpTwoD => Sys2Proof.Machine.execCmpTwoD s
  | .cmpAuto => Sys2Proof.Machine.execCmpAuto s
  | .avgCopy => Sys2Proof.Machine.execAvgCopy s
  | .avgX => Sys2Proof.Machine.execAvgX s
  | .avgY => Sys2Proof.Machine.execAvgY s
  | .avgTwoD => Sys2Proof.Machine.execAvgTwoD s
  | .avgAuto => Sys2Proof.Machine.execAvgAuto s
  | .jntCopy => Sys2Proof.Machine.execJntCopy s
  | .jntX => Sys2Proof.Machine.execJntX s
  | .jntY => Sys2Proof.Machine.execJntY s
  | .jntTwoD => Sys2Proof.Machine.execJntTwoD s
  | .jntAuto => Sys2Proof.Machine.execJntAuto s

end Sys2Proof.Machine
end

