-- ==== Sys2Proof/Machine/Engine.lean ====
section
/-! DEFINITION. The command in flight: the rule its word selects, and the engine's event that ends it (spec 30_encoding.md R111, 60_exceptions.md R247, R248, R250). -/

namespace Sys2Proof.Machine

/-- `EXEC`: the rule of a command's mnemonic (30_encoding.md R104, R111). -/
def passOf : Instr → State → List ByteStore
  | .srCopy => srCopyPass
  | .srX => srXPass
  | .srY => srYPass
  | .srTwoD => srTwoDPass
  | .srAuto => srAutoPass
  | .cmpCopy => cmpCopyPass
  | .cmpX => cmpXPass
  | .cmpY => cmpYPass
  | .cmpTwoD => cmpTwoDPass
  | .cmpAuto => cmpAutoPass
  | .avgCopy => avgCopyPass
  | .avgX => avgXPass
  | .avgY => avgYPass
  | .avgTwoD => avgTwoDPass
  | .avgAuto => avgAutoPass
  | .jntCopy => jntCopyPass
  | .jntX => jntXPass
  | .jntY => jntYPass
  | .jntTwoD => jntTwoDPass
  | .jntAuto => jntAutoPass

/-- The command in flight, while the phase is BUSY (10_state.md R53, R56). -/
def State.inFlight (s : State) : Option Instr :=
  match s.phase with
  | .idle => none
  | .busy =>
    match decode s.snap.cmd with
    | .ok i => some i
    | .error _ => none

/-- The engine's event: the command in flight ends (30_encoding.md R111). An IDLE engine does nothing (60_exceptions.md
R255). -/
def engineTurn (s : State) : Host.Outcome State Fault Refusal :=
  match s.phase with
  | .idle => .next s
  | .busy =>
    match decode s.snap.cmd with
    | .ok i => .next (finish i (passOf i) s)
    | .error _ => .fault .noCommandInFlight

end Sys2Proof.Machine
end

