-- ==== Sys2Proof/Machine/Host.lean ====
section
/-! DEFINITION. The events from outside the engine: host accesses to the register block, accesses to memory by the host and other agents, and reset (spec 10_state.md R32 to R51; 20_memory.md R83, R84, R87; 70_reset_and_hazards.md R270, R271, R275, R276). -/

namespace Sys2Proof.Machine

/-! ## The register block (10_state.md R32) -/

/-- The listed registers (10_state.md R32). -/
inductive Reg where
  | id
  | status
  | cmd
  | irqEn
  | srcBase
  | srcStride
  | dstBase
  | dstStride
  | cbufBase
  | cbufStride
  | blkSize
  | filtX
  | filtY
  | round
  | weight
  | ksel
  | ktap01
  | ktap23
  | ktap45
  | ktap67
  | kinfo
deriving DecidableEq, Repr

/-- The register table (10_state.md R32). -/
def regTable : List (BitVec 8 × Reg) := [
  (0x00, .id),
  (0x04, .status),
  (0x08, .cmd),
  (0x0C, .irqEn),
  (0x10, .srcBase),
  (0x14, .srcStride),
  (0x18, .dstBase),
  (0x1C, .dstStride),
  (0x20, .cbufBase),
  (0x24, .cbufStride),
  (0x28, .blkSize),
  (0x2C, .filtX),
  (0x30, .filtY),
  (0x34, .round),
  (0x38, .weight),
  (0x40, .ksel),
  (0x44, .ktap01),
  (0x48, .ktap23),
  (0x4C, .ktap45),
  (0x50, .ktap67),
  (0x54, .kinfo)]

/-- The register at an offset, if the table lists one (10_state.md R32). -/
def regAt (off : BitVec 8) : Option Reg := List.lookup off regTable

/-- The offset of CMD (10_state.md R36). -/
def cmdOffset : BitVec 8 := 0x08

/-- What `ID` reads (10_state.md R33). -/
def idWord : Word := 0x53434501

/-- The bits of a stride register that are not reserved (10_state.md R39, R41, R43). -/
def strideMask : Word := 0x0000FFFF

/-- The bits of BLK_SIZE that are not reserved (10_state.md R44). -/
def blkSizeMask : Word := 0x00FF00FF

/-- The bits of FILT_X and FILT_Y that are not reserved (10_state.md R45, R46). -/
def filtMask : Word := 0x0000170F

/-- The bits of ROUND that are not reserved (10_state.md R47). -/
def roundMask : Word := 0x00000F0F

/-- The bits of WEIGHT that are not reserved (10_state.md R48). -/
def weightMask : Word := 0x00001F1F

/-- The bits of KSEL that are not reserved (10_state.md R49). -/
def kselMask : Word := 0x0000070F

/-- The bits of IRQ_EN that are not reserved (10_state.md R37). -/
def irqEnMask : Word := 0x00000003

/-- What a register reads; a read has no side effect (10_state.md R32 to R51). -/
def readReg (r : Reg) (s : State) : Word :=
  match r with
  | .id => idWord
  | .status => statusWord s
  | .cmd => s.cmd
  | .irqEn => s.irqEn
  | .srcBase => s.regs.srcBase
  | .srcStride => s.regs.srcStride
  | .dstBase => s.regs.dstBase
  | .dstStride => s.regs.dstStride
  | .cbufBase => s.regs.cbufBase
  | .cbufStride => s.regs.cbufStride
  | .blkSize => s.regs.blkSize
  | .filtX => s.regs.filtX
  | .filtY => s.regs.filtY
  | .round => s.regs.round
  | .weight => s.regs.weight
  | .ksel => s.ksel
  | .ktap01 => tapPair (readoutKernel s.ksel).k0 (readoutKernel s.ksel).k1
  | .ktap23 => tapPair (readoutKernel s.ksel).k2 (readoutKernel s.ksel).k3
  | .ktap45 => tapPair (readoutKernel s.ksel).k4 (readoutKernel s.ksel).k5
  | .ktap67 => tapPair (readoutKernel s.ksel).k6 (readoutKernel s.ksel).k7
  | .kinfo => readoutInfo s.ksel

/-- A host write to a register other than CMD, whose write issues a command (10_state.md R33 to R51). Reserved bits ignore
writes, and so do read-only registers. -/
def writeReg (r : Reg) (v : Word) (s : State) : State :=
  match r with
  | .id => s
  | .status => writeStatus v s
  | .cmd => issue v s
  | .irqEn => { s with irqEn := v &&& irqEnMask }
  | .srcBase => { s with regs := { s.regs with srcBase := v } }
  | .srcStride => { s with regs := { s.regs with srcStride := v &&& strideMask } }
  | .dstBase => { s with regs := { s.regs with dstBase := v } }
  | .dstStride => { s with regs := { s.regs with dstStride := v &&& strideMask } }
  | .cbufBase => { s with regs := { s.regs with cbufBase := v } }
  | .cbufStride => { s with regs := { s.regs with cbufStride := v &&& strideMask } }
  | .blkSize => { s with regs := { s.regs with blkSize := v &&& blkSizeMask } }
  | .filtX => { s with regs := { s.regs with filtX := v &&& filtMask } }
  | .filtY => { s with regs := { s.regs with filtY := v &&& filtMask } }
  | .round => { s with regs := { s.regs with round := v &&& roundMask } }
  | .weight => { s with regs := { s.regs with weight := v &&& weightMask } }
  | .ksel => { s with ksel := v &&& kselMask }
  | .ktap01 => s
  | .ktap23 => s
  | .ktap45 => s
  | .ktap67 => s
  | .kinfo => s

/-- Only aligned 32-bit host accesses are defined (10_state.md R32). DESIGN CHOICE, unsafe (log 30): aligned by the offset in the
block; the spec does not say that the block's base is a multiple of 4. -/
def mmioDefined (size : AccessSize) (off : BitVec 8) : Bool := size == .word && off.toNat % 4 == 0

/-- A host read of the register block: an unlisted offset reads 0 (10_state.md R32). -/
def hostRead (size : AccessSize) (off : BitVec 8) (s : State) : Host.Outcome State Fault Refusal :=
  if mmioDefined size off then
    match regAt off with
    | some r => .next { s with rdata := readReg r s }
    | none => .next { s with rdata := 0 }
  else .refused .subWordMmio

/-- A host write to the register block: a write to CMD runs the command its word decodes to, an illegal word ends at acceptance
(30_encoding.md R105, R110), and a write to an unlisted offset is ignored (10_state.md R32). -/
def hostWrite (size : AccessSize) (off : BitVec 8) (v : Word) (s : State) : Host.Outcome State Fault Refusal :=
  if mmioDefined size off then
    match regAt off with
    | some .cmd =>
      match decode v with
      | .ok i => exec i s
      | .error _ => .next (issue v s)
    | some r => .next (writeReg r v s)
    | none => .next s
  else .refused .subWordMmio

/-! ## Memory -/

/-- The command in flight may read this byte (70_reset_and_hazards.md R276). -/
def inFlightReads (s : State) (a : Word) : Bool :=
  match s.inFlight with
  | some i => (readFootprint i s.snap).contains a
  | none => false

/-- The command in flight writes this byte (20_memory.md R77). -/
def inFlightWrites (s : State) (a : Word) : Bool :=
  match s.inFlight with
  | some i => (writeFootprint i s.snap).contains a
  | none => false

/-- The model notes stores of the host or another agent to these bytes. One into the read footprint of the command in flight leaves
its results unspecified (70_reset_and_hazards.md R276; log 9), one into its write footprint leaves that element unspecified
(20_memory.md R87, 70_reset_and_hazards.md R278; log 18). -/
def noteStores (as : List Word) (s : State) : State :=
  { s with
    tainted := s.tainted || as.any (inFlightReads s)
    raced := as.filter (inFlightWrites s) ++ s.raced }

/-- One byte stored by the host or another agent, visible to the engine. -/
def agentStore (s : State) (w : ByteStore) : State := { noteStores [w.1] s with mem := s.mem.write8 w.1 w.2 }

/-- The byte stores of a store of up to 32 bits, little-endian (20_memory.md R72). -/
def storeBytes (size : AccessSize) (a v : Word) : List ByteStore := memWrite a size.bytes (v.toNat : Int)

/-- The host's copies of these bytes are its own latest: it wrote or invalidated them (20_memory.md R83; log 29). -/
def refresh (as : List Word) (s : State) : State :=
  { s with stale := s.stale.filter fun a => !as.contains a }

/-- A host store that is visible at once (20_memory.md R84, R87). -/
def memStoreEvent (size : AccessSize) (a v : Word) (s : State) : State :=
  (storeBytes size a v).foldl agentStore (refresh ((storeBytes size a v).map Prod.fst) s)

/-- A store of another bus agent (20_memory.md R87): the host may hold older copies of its bytes (log 29). -/
def otherStoreEvent (size : AccessSize) (a v : Word) (s : State) : State :=
  (storeBytes size a v).foldl agentStore { s with stale := s.stale ++ (storeBytes size a v).map Prod.fst }

/-- The host invalidates its copies of a range (20_memory.md R83). DESIGN CHOICE, unsafe (log 31): its own stores that are still
posted stay, which the rule leaves open, so a load still sees the posted byte, and a drain or a fence stores it later. -/
def memInvalidateEvent (lo hi : Word) (s : State) : State :=
  { s with stale := s.stale.filter fun a => !(AddrRange.mk lo hi).holds a }

/-- A host store that the engine cannot see yet (20_memory.md R84). While a command runs it is a write to the command's footprints
like a visible one (70_reset_and_hazards.md R276), and again when it becomes visible. -/
def memPostEvent (size : AccessSize) (a v : Word) (s : State) : State :=
  { noteStores ((storeBytes size a v).map Prod.fst) (refresh ((storeBytes size a v).map Prod.fst) s) with
    posted := s.posted ++ storeBytes size a v }

/-- The host's fence: its posted stores become visible in order (20_memory.md R84), over what the engine has written meanwhile
(log 31). -/
def memFenceEvent (s : State) : State := s.posted.foldl agentStore { s with posted := [] }

/-- The oldest posted byte becomes visible by itself (20_memory.md R84), over what the engine has written meanwhile (log 31). -/
def memDrainEvent (s : State) : State :=
  match s.posted with
  | [] => s
  | w :: ws => agentStore { s with posted := ws } w

/-- The latest posted byte at an address: the host sees its own stores. -/
def postedAt (s : State) (a : Word) : Option Byte := List.lookup a s.posted.reverse

/-- The byte an early read may see instead of the old one: the result of the command in flight (20_memory.md R83). DESIGN CHOICE,
safe (log 11): where the spec leaves the results unspecified (`tainted`, or the element is in `raced`), the new value seen is a free
byte of this load's own draw, which need not be the byte another load sees or the byte finally stored. -/
def newByte (s : State) (a : Word) : Byte :=
  match s.inFlight with
  | some i => (resultMemory i (passOf i s) s).read8 a
  | none => s.mem.read8 a

/-- The address of the element that a byte of the write footprint belongs to (20_memory.md R73, R79). -/
def elementOf (s : State) (a : Word) : Word :=
  match s.inFlight with
  | some i => if i.mode.writesDst then a else a &&& ~~~1
  | none => a

/-- The byte a host load reads. The host sees its own posted stores. While the engine is BUSY, a byte of the write footprint holds
its old or its new value, one choice for each element and read (20_memory.md R79, R83; 70_reset_and_hazards.md R275; log 11). On a
platform that is not coherent, a byte written since the host last invalidated it is a free value (20_memory.md R83; log 29). -/
def loadByte (s : State) (a : Word) : Byte :=
  match postedAt s a with
  | some b => b
  | none =>
    if inFlightWrites s a then
      if Config.seesNew s.draws (elementOf s a) then newByte s a else s.mem.read8 a
    else if s.stale.contains a && !Config.platformCoherent then Config.staleByte s.draws a
    else s.mem.read8 a

/-- The little-endian value a host load of up to 32 bits reads (20_memory.md R72). -/
def loadValue (size : AccessSize) (a : Word) (s : State) : Word :=
  (List.range size.bytes).foldl
    (fun v k => v ||| ((loadByte s (a + BitVec.ofNat 32 k)).setWidth 32 <<< (8 * k))) 0

/-- A host load from memory (20_memory.md R83). -/
def memLoadEvent (size : AccessSize) (a : Word) (s : State) : State :=
  { s with
    rdata := loadValue size a s
    draws := s.draws + 1 }

/-! ## Reset -/

/-- The memory effect of reset: while a command is in flight its write footprint comes to hold any value, and nothing else
changes (70_reset_and_hazards.md R271). -/
def resetMemory (s : State) : Memory :=
  match s.inFlight with
  | some i => s.mem.writeAll (freeStores s.draws (writeFootprint i s.snap))
  | none => s.mem

/-- The bytes that a reset during a command may have changed (70_reset_and_hazards.md R271). -/
def resetWritten (s : State) : List Word :=
  match s.inFlight with
  | some i => writeFootprint i s.snap
  | none => []

/-- RESET: every piece of SCE state takes its value of 10_state.md R58 (70_reset_and_hazards.md R270, R271). What lies outside
SCE stays: memory, the host's posted stores and cached copies, the events to come and the platform. -/
def resetEvent (s : State) : State :=
  { State.reset with
    mem := resetMemory s
    events := s.events
    posted := s.posted
    stale := s.stale ++ resetWritten s
    rdata := s.rdata
    draws := s.draws + 1
    busHoles := s.busHoles
    deviceRegions := s.deviceRegions }

/-! ## Events -/

/-- What one event does (60_exceptions.md R250). -/
def runEvent (e : Event) (s : State) : Host.Outcome State Fault Refusal :=
  match e with
  | .regWrite size off v => hostWrite size off v s
  | .regRead size off => hostRead size off s
  | .memLoad size a => .next (memLoadEvent size a s)
  | .memStore size a v => .next (memStoreEvent size a v s)
  | .memPost size a v => .next (memPostEvent size a v s)
  | .memFence => .next (memFenceEvent s)
  | .memDrain => .next (memDrainEvent s)
  | .otherStore size a v => .next (otherStoreEvent size a v s)
  | .memInvalidate lo hi => .next (memInvalidateEvent lo hi s)
  | .engine => engineTurn s
  | .reset => .next (resetEvent s)

end Sys2Proof.Machine
end

