-- ==== Sys2Proof/Machine/Step.lean ====
section
/-! DEFINITION. One step of the machine: the next event of the sequence (spec 60_exceptions.md R250), and where the host checks place a command word. -/

namespace Sys2Proof.Machine

/-- One step: the next event takes effect. Where none is left, a BUSY engine reaches the end of its command (10_state.md R53)
and an IDLE one waits (60_exceptions.md R255). -/
def step (s : State) : Host.Outcome State Fault Refusal :=
  match s.events with
  | [] => engineTurn s
  | e :: es => runEvent e { s with events := es }

/-- The state whose next event is the host's write of a command word to CMD (30_encoding.md R100, R110). -/
def State.withFetchWord (s : State) (nbits w : Nat) : State :=
  { s with events := .regWrite .word cmdOffset (BitVec.ofNat 32 (w % 2 ^ nbits)) :: s.events }

end Sys2Proof.Machine
end

