-- ==== Sys2Proof/Machine/Platform.lean ====
section
/-! DEFINITION. How the platform reaches SCE, by the OPEN parameters of spec 00_scope.md R9: the events that a host's bus accesses are, the interrupt lines, the reset sources and the other instances. -/

namespace Sys2Proof.Machine

/-- The offset in the register block of the first byte of an access, if the access touches the block of 256 bytes at
`SCE_MMIO_BASE` (20_memory.md R70, 10_state.md R32). An access that begins below the block and reaches into it has a misaligned
offset (log 14); that an access is aligned by its offset, not by its bus address, is log 30. -/
def mmioOffset (size : AccessSize) (addr : Word) : Option (BitVec 8) :=
  if (List.range size.bytes).any fun k => decide (addr + BitVec.ofNat 32 k - Config.mmioBase < 256) then
    some ((addr - Config.mmioBase).setWidth 8)
  else none

/-- The event that a host store at a bus address is: to the register block, or to memory. On a coherent platform the host's
ordinary store-to-device ordering makes its stores visible (20_memory.md R84), and otherwise they are posted until they are made
visible. DEDUCED, safe (log 12). -/
def hostStoreEvent (size : AccessSize) (addr v : Word) : Event :=
  match mmioOffset size addr with
  | some off => .regWrite size off v
  | none => if Config.platformCoherent then .memStore size addr v else .memPost size addr v

/-- The event that a host load at a bus address is. -/
def hostLoadEvent (size : AccessSize) (addr : Word) : Event :=
  match mmioOffset size addr with
  | some off => .regRead size off
  | none => .memLoad size addr

/-- The level of the platform's interrupt input `line` as far as SCE drives it (60_exceptions.md R249). -/
def irqInput (s : State) (line : Nat) : Bool := line == Config.irqLine && irq s

/-- The event that the platform's reset source is for this instance, if it drives its reset input (70_reset_and_hazards.md
R270). -/
def resetSourceEvent (source : Nat) : Option Event := if source = Config.resetSource then some .reset else none

/-- The event that a memory write of another instance is for this one: an 8-bit DST sample or a 16-bit CBUF element (20_memory.md
R73, R87). The others are numbered from 1 (60_exceptions.md R256); a number that no instance has writes nothing. -/
def instanceStoreEvent (k : Nat) (size : AccessSize) (addr v : Word) : Option Event :=
  if 1 ≤ k ∧ k < Config.nInstances ∧ size ≠ .word then some (.otherStore size addr v) else none

end Sys2Proof.Machine
end

