-- ==== Sys2Proof/Safety.lean ====
section
/-! DEFINITION. The terms the statements use: legal configurations spelled out from the rules, when a command can complete, what completion and the errors leave, the pure values of the 2-D path, and the invariant of the machine. -/

namespace Sys2Proof.Safety

open Sys2Proof.Machine

/-! ## The opcode map (30_encoding.md R104) -/

/-- The `enc` column of the opcode map, word by word. -/
def encWord : Instr → Word
  | .srCopy => 0x00000000
  | .srX => 0x00000001
  | .srY => 0x00000002
  | .srTwoD => 0x00000003
  | .srAuto => 0x00000004
  | .cmpCopy => 0x00000008
  | .cmpX => 0x00000009
  | .cmpY => 0x0000000A
  | .cmpTwoD => 0x0000000B
  | .cmpAuto => 0x0000000C
  | .avgCopy => 0x00000018
  | .avgX => 0x00000019
  | .avgY => 0x0000001A
  | .avgTwoD => 0x0000001B
  | .avgAuto => 0x0000001C
  | .jntCopy => 0x00000038
  | .jntX => 0x00000039
  | .jntY => 0x0000003A
  | .jntTwoD => 0x0000003B
  | .jntAuto => 0x0000003C

/-! ## Legal configurations (60_exceptions.md R243) -/

/-- Legal single-reference rounding. -/
def LegalRoundSr (p : Snapshot) : Prop := 1 ≤ p.r0 ∧ p.r0 ≤ 7 ∧ p.r0 + p.r1 = 14

/-- Legal compound rounding. -/
def LegalRoundCompound (p : Snapshot) : Prop :=
  1 ≤ p.r0 ∧ p.r0 ≤ 7 ∧ 1 ≤ p.r1 ∧ p.r1 ≤ 7 ∧ 8 ≤ p.r0 + p.r1

/-- The configuration checks, each as the rule words it. The two codes that are no check of a legal word never hold. -/
def Violates (i : Instr) (p : Snapshot) : ErrCode → Prop
  | .illegalCmd => False
  | .size => ¬(1 ≤ p.w ∧ p.w ≤ 128 ∧ 1 ≤ p.h ∧ p.h ≤ 128)
  | .filter =>
    ((p.path i = .x ∨ p.path i = .twoD) ∧ (p.sx = 6 ∨ p.sx = 7)) ∨
      ((p.path i = .y ∨ p.path i = .twoD) ∧ (p.sy = 6 ∨ p.sy = 7))
  | .round => if i.mode = .sr then ¬LegalRoundSr p else ¬LegalRoundCompound p
  | .weight => i.mode = .jnt ∧ p.fwd + p.bck ≠ 16
  | .stride =>
    1 < p.h ∧ ((i.mode ≠ .cmp ∧ p.dstStride < p.w) ∨ (i.mode ≠ .sr ∧ p.cbufStride < p.w))
  | .align => i.mode ≠ .sr ∧ p.regs.cbufBase.getLsbD 0 = true
  | .bus => False

/-- No check fails. -/
def Legal (i : Instr) (p : Snapshot) : Prop :=
  ¬Violates i p .size ∧ ¬Violates i p .filter ∧ ¬Violates i p .round ∧ ¬Violates i p .weight ∧
    ¬Violates i p .stride ∧ ¬Violates i p .align

/-! ## When a command completes -/

/-- The snapshot that issuing a command takes (10_state.md R56). -/
abbrev accepted (i : Instr) (s : State) : Snapshot := s.snapshotWith (encode i)

/-- The platform admits every access the command may make: the full reference window, the CBUF block it reads and its write
footprint (70_reset_and_hazards.md R273, obligations 3 and 4). -/
structure BusAdmits (i : Instr) (s : State) : Prop where
  samples : ∀ q ∈ fullWindow ((accepted i s).path i) (accepted i s),
    busOk s.busHoles (srcAddr (accepted i s) q.1 q.2) 1 .read = true
  cbufReads : i.mode.readsCbuf = true → ∀ a ∈ cbufElements (accepted i s), busOk s.busHoles a 2 .read = true
  dstWrites : i.mode.writesDst = true → ∀ a ∈ dstBytes (accepted i s), busOk s.busHoles a 1 .write = true
  cbufWrites : i.mode.writesDst = false → ∀ a ∈ cbufElements (accepted i s), busOk s.busHoles a 2 .write = true

/-- The platform refuses an access that the command makes for certain: a read of the needed window or of the CBUF block, or a write
of the write footprint (60_exceptions.md R247, 20_memory.md R76 to R78). For kind 2D the needed window is the model's reading (log
8). -/
def AccessRefused (i : Instr) (p : Snapshot) (holes : List BusHole) : Prop :=
  (∃ q ∈ fullWindow (p.path i) p,
      needed (p.path i) p q = true ∧ busOk holes (srcAddr p q.1 q.2) 1 .read = false) ∨
    (i.mode.readsCbuf = true ∧ ∃ a ∈ cbufElements p, busOk holes a 2 .read = false) ∨
    (i.mode.writesDst = true ∧ ∃ a ∈ dstBytes p, busOk holes a 1 .write = false) ∨
    (i.mode.writesDst = false ∧ ∃ a ∈ cbufElements p, busOk holes a 2 .write = false)

/-- The results are specified when the command starts: its footprints do not overlap, the host's stores to its inputs are
visible, and no buffer lies in a region with read side effects (70_reset_and_hazards.md R276, R277). -/
structure Undisturbed (i : Instr) (s : State) : Prop where
  apart : overlaps i (accepted i s) = false
  visible : awaitsPosted s.posted i (accepted i s) = false
  plain : touchesDevice s.deviceRegions i (accepted i s) = false

/-- The engine is IDLE, the end of the command is the next event, and the configuration is legal. -/
structure Runs (i : Instr) (s : State) : Prop where
  idle : s.phase = .idle
  next : engineNext s.events = true
  legal : Legal i (accepted i s)

/-- A command that completes with specified results, in a machine whose memory is in its canonical form. -/
structure CanComplete (i : Instr) (s : State) : Prop where
  runs : Runs i s
  bus : BusAdmits i s
  undisturbed : Undisturbed i s
  memory : s.mem.wf

/-- The next step is a host write of this word to CMD. -/
def NextIsCmdWrite (v : Word) (s : State) : Prop := ∃ es, s.events = .regWrite .word cmdOffset v :: es

/-- The next step ends the command `i` on the snapshot `p`: it is in flight and its end comes next, or it is issued to an IDLE
engine on a legal configuration and its end comes right after (30_encoding.md R111; log 2). -/
def EndsCommand (i : Instr) (p : Snapshot) (s : State) : Prop :=
  (s.inFlight = some i ∧ p = s.snap ∧ engineNext s.events = true) ∨
    (s.phase = .idle ∧ ∃ v es, s.events = .regWrite .word cmdOffset v :: es ∧ decode v = .ok i ∧ p = s.snapshotWith v ∧
      Legal i p ∧ engineNext es = true)

/-- The state that acceptance leaves before the checks (30_encoding.md R110). -/
def acceptedState (v : Word) (s : State) : State :=
  { s with
    cmd := v
    snap := s.snapshotWith v
    done := false
    err := false
    errCode := 0 }

/-- The state after completion: DONE is set, the phase is IDLE, memory is `m`, and every field not named here is as before
(30_encoding.md R110, 60_exceptions.md R248). -/
def completedState (i : Instr) (s : State) (m : Memory) : State :=
  { acceptedState (encode i) s with
    phase := .idle
    done := true
    im := []
    mem := m
    stale := s.stale ++ writeFootprint i (accepted i s)
    events := afterEngine s.events
    tainted := false
    raced := []
    draws := s.draws + 1 }

/-- The state after a bus error, with memory `m` (60_exceptions.md R247). -/
def busErrorState (i : Instr) (s : State) (m : Memory) : State :=
  { acceptedState (encode i) s with
    phase := .idle
    err := true
    errCode := 8
    im := []
    mem := m
    stale := s.stale ++ writeFootprint i (accepted i s)
    events := afterEngine s.events
    tainted := false
    raced := []
    draws := s.draws + 1 }

/-- The command completes and writes the DST block with the bytes `f` gives, and no other byte of memory changes. -/
def CompletesDst (i : Instr) (s : State) (f : Snapshot → Memory → Nat → Nat → Int) : Prop :=
  ∃ m : Memory, exec i s = .next (completedState i s m) ∧
    (∀ r < (accepted i s).h, ∀ c < (accepted i s).w,
      m.read8 (dstAddr (accepted i s) r c) = BitVec.ofInt 8 (f (accepted i s) s.mem r c)) ∧
    (∀ a : Word, (∀ r < (accepted i s).h, ∀ c < (accepted i s).w, a ≠ dstAddr (accepted i s) r c) →
      m.read8 a = s.mem.read8 a)

/-- The command completes and writes the CBUF block with the elements `f` gives, low byte first, and no other byte of memory
changes. -/
def CompletesCbuf (i : Instr) (s : State) (f : Snapshot → Memory → Nat → Nat → Int) : Prop :=
  ∃ m : Memory, exec i s = .next (completedState i s m) ∧
    (∀ r < (accepted i s).h, ∀ c < (accepted i s).w,
      m.read8 (cbufAddr (accepted i s) r c) = BitVec.ofInt 8 (f (accepted i s) s.mem r c) ∧
      m.read8 (cbufAddr (accepted i s) r c + 1) = BitVec.ofInt 8 (f (accepted i s) s.mem r c / 256)) ∧
    (∀ a : Word, (∀ r < (accepted i s).h, ∀ c < (accepted i s).w,
        a ≠ cbufAddr (accepted i s) r c ∧ a ≠ cbufAddr (accepted i s) r c + 1) →
      m.read8 a = s.mem.read8 a)

/-! ## The 2-D path on unbounded integers -/

/-- `VR(r, c)` with the entries of IM as the integers the rule gives them, before any 16-bit store (41_datapath.md R163 to
R166). -/
def vrPure (p : Snapshot) (m : Memory) (r c : Int) : Int :=
  roundShift (p.voff + tapSum p.ky fun k => roundShift (hoff + hs p m (r - 3 + k) c) p.r0) p.r1

/-- The sample `conv.sr.2d` writes (42_single_ref.md R194). -/
def singleTwoDPure (p : Snapshot) (m : Memory) (r c : Int) : Int := clip8 (roundShift (vrPure p m r c - p.ro) p.rb)

/-- The sample `conv.sr.auto` writes: that of the kind the phases resolve to (30_encoding.md R108, 42_single_ref.md R195). -/
def singleAuto (p : Snapshot) (m : Memory) (r c : Int) : Int :=
  if p.px = 0 ∧ p.py = 0 then sample p m r c
  else if p.py = 0 then singleX p m r c
  else if p.px = 0 then singleY p m r c
  else singleTwoDPure p m r c

/-- The compound prediction of an AUTO command (30_encoding.md R108, 43_compound.md R211). -/
def predAuto (p : Snapshot) (m : Memory) (r c : Int) : Int :=
  if p.px = 0 ∧ p.py = 0 then predCopy p m r c
  else if p.py = 0 then predX p m r c
  else if p.px = 0 then predY p m r c
  else vrPure p m r c

/-- The output of the AVG loop for a prediction (43_compound.md section 4). -/
def avgOut (pred : Snapshot → Memory → Int → Int → Int) (p : Snapshot) (m : Memory) (r c : Nat) : Int :=
  clip8 (roundShift (asr (existing p m r c + pred p m r c) 1 - p.ro) p.rb)

/-- The output of the JNT loop for a prediction (43_compound.md section 5). -/
def jntOut (pred : Snapshot → Memory → Int → Int → Int) (p : Snapshot) (m : Memory) (r c : Nat) : Int :=
  clip8 (roundShift (asr (existing p m r c * p.fwd + pred p m r c * p.bck) 4 - p.ro) p.rb)

/-! ## The invariant -/

/-- No reserved bit of a configuration register is set (10_state.md R32, R38 to R48). -/
def ReservedClear (g : ConfigRegs) : Prop :=
  g.srcStride &&& ~~~strideMask = 0 ∧ g.dstStride &&& ~~~strideMask = 0 ∧ g.cbufStride &&& ~~~strideMask = 0 ∧
    g.blkSize &&& ~~~blkSizeMask = 0 ∧ g.filtX &&& ~~~filtMask = 0 ∧ g.filtY &&& ~~~filtMask = 0 ∧
    g.round &&& ~~~roundMask = 0 ∧ g.weight &&& ~~~weightMask = 0

/-- What every reachable state satisfies. -/
structure MachineInv (s : State) : Prop where
  /-- Memory is in its canonical form, which is the model's (log 3). -/
  memory : s.mem.wf
  /-- Reserved bits read 0 (10_state.md R32). -/
  regs : ReservedClear s.regs
  /-- After reset it is the model's choice (log 4). -/
  snap : ReservedClear s.snap.regs
  irqEn : s.irqEn &&& ~~~irqEnMask = 0
  ksel : s.ksel &&& ~~~kselMask = 0
  /-- ERR_CODE is 0 when ERR is 0 (10_state.md R34). -/
  noCode : s.err = false → s.errCode = 0
  /-- ERR_CODE is 1 to 8 when ERR is 1: 9 to 15 are never produced (60_exceptions.md R241). -/
  someCode : s.err = true → 1 ≤ s.errCode.toNat ∧ s.errCode.toNat ≤ 8
  /-- DONE and ERR are never both 1 (60_exceptions.md R250). -/
  exclusive : ¬(s.done = true ∧ s.err = true)
  /-- While BUSY, DONE and ERR are 0 (60_exceptions.md R250). -/
  busyFlags : s.phase = .busy → s.done = false ∧ s.err = false
  /-- The phase is BUSY only for a command that passed its checks (10_state.md R53). -/
  busyLegal : s.phase = .busy → check s.snap = none
  /-- CMD reads the word of the snapshot (10_state.md R36, R56). After reset, where the spec leaves SNAP unspecified, it is the
  model's choice (log 4). -/
  cmdIsSnap : s.cmd = s.snap.cmd

end Sys2Proof.Safety
end

