-- ==== Sys2Proof/Certificates/Slice0/Obligations.lean ====
section
/-! DEFINITION. The statements about the model, from the numbered rules of the spec. Nothing is proved here. -/

open Sys2Proof Sys2Proof.Machine Sys2Proof.Safety

/-! ## Encoding -/

/-- 30_encoding.md R104: each word of the opcode map decodes to its command, and the encoder gives that word. -/
def Obligations.DecodeOpcodeMapWords : Prop :=
  ∀ i : Instr, decode (encWord i) = .ok i ∧ encode i = encWord i

/-- 30_encoding.md R104, R105: decoding an encoded command gives it back; a word decodes to a command only if it is exactly the
word of the opcode map; exactly twenty words do; and issuing any other word to an IDLE engine ends at acceptance with ILLEGAL_CMD,
memory as before. The host's write is the next event of the sequence of 60_exceptions.md R250. -/
def Obligations.LegalWordsAreExactlyTheTwenty : Prop :=
  (∀ i : Instr, i.WellFormed → decode (encode i) = .ok i) ∧
  (∀ (w : Word) (i : Instr), decode w = .ok i → w = encWord i) ∧
  (∃ l : List Word, l.length = 20 ∧ l.Nodup ∧ ∀ w : Word, w ∈ l ↔ ∃ i : Instr, decode w = .ok i) ∧
  (∀ (s : State) (w : Word) (es : List Event),
    (∀ i : Instr, w ≠ encWord i) → s.phase = .idle → s.events = .regWrite .word cmdOffset w :: es →
      step s = .next { acceptedState w s with err := true, errCode := 1, events := es })

/-! ## A step runs the issued command -/

/-- The next event is the host's aligned 32-bit write of a word that decodes to a well-formed command: the step is that command's
meaning, on the state with the event taken from the sequence. The word that `withFetchWord` places is run by the next step. The sequence of
events is 60_exceptions.md R250's; that State holds it, and `withFetchWord`, are the model's choices (log 1). -/
def Obligations.StepRunsIssuedCommand : Prop :=
  (∀ (s : State) (v : Word) (i : Instr) (es : List Event),
    s.events = .regWrite .word cmdOffset v :: es → decode v = .ok i → i.WellFormed →
      step s = exec i { s with events := es }) ∧
  (∀ (s : State) (w : Nat) (i : Instr), w < 2 ^ 32 → decode (BitVec.ofNat 32 w) = .ok i → i.WellFormed →
      step (s.withFetchWord 32 w) = exec i s)

/-- 70_reset_and_hazards.md R282: a command may end in the step that issues it or in a later step. A command that is not at once
ended is in flight, with memory untouched; and if the next event is then its end, that leaves what the immediate end leaves, whether
that is completion or a bus error. Nothing is said here of the events that may come between. How the end is placed among the events
is the model's choice (log 2). -/
def Obligations.DeferredEndAgrees : Prop :=
  ∀ (i : Instr) (s t : State) (e : Event) (es : List Event),
    Runs i s → s.events = [] → e ≠ .engine → exec i s = .next t →
      ∃ b : State, exec i { s with events := e :: es } = .next b ∧
        b.phase = .busy ∧ b.done = false ∧ b.err = false ∧ b.mem = s.mem ∧ b.events = e :: es ∧
        ∀ es' : List Event, step { b with events := .engine :: es' } = .next { t with events := es' }

/-! ## The command lifecycle -/

/-- 60_exceptions.md R246: a CMD write while BUSY sets OVR and changes nothing else, the interrupt output included, whatever the
word; and OVR falls only by a STATUS write with bit 3 set or by reset. -/
def Obligations.OverrunDropsWord : Prop :=
  (∀ (s : State) (v : Word) (es : List Event),
    s.phase = .busy → s.events = .regWrite .word cmdOffset v :: es →
      step s = .next { s with ovr := true, events := es } ∧
      irq { s with ovr := true, events := es } = irq s) ∧
  (∀ s t : State, s.ovr = true → step s = .next t → t.ovr = false →
    (∃ v es, s.events = .regWrite .word 0x04 v :: es ∧ v.getLsbD 3 = true) ∨ ∃ es, s.events = .reset :: es)

/-- 60_exceptions.md R245: a word that fails a check at acceptance sets ERR and its code; DONE reads 0, the phase stays IDLE,
CMD reads the word, and memory and every other register are as before. -/
def Obligations.ConfigErrorIsPrecise : Prop :=
  ∀ (s : State) (v : Word) (es : List Event) (e : ErrCode),
    s.phase = .idle → s.events = .regWrite .word cmdOffset v :: es → check (s.snapshotWith v) = some e →
      step s = .next { acceptedState v s with err := true, errCode := e.code, events := es }

/-- 60_exceptions.md R243, R244: the check of a legal word reports the first failing check in the order SIZE, FILTER, ROUND,
WEIGHT, STRIDE, ALIGN, and none exactly on a legal configuration; an illegal word reports ILLEGAL_CMD whatever else fails. -/
def Obligations.CheckReportsFirstFailure : Prop :=
  (∀ (p : Snapshot) (i : Instr), decode p.cmd = .ok i →
    (check p = some .size ↔ Violates i p .size) ∧
    (check p = some .filter ↔ ¬Violates i p .size ∧ Violates i p .filter) ∧
    (check p = some .round ↔ ¬Violates i p .size ∧ ¬Violates i p .filter ∧ Violates i p .round) ∧
    (check p = some .weight ↔
      ¬Violates i p .size ∧ ¬Violates i p .filter ∧ ¬Violates i p .round ∧ Violates i p .weight) ∧
    (check p = some .stride ↔
      ¬Violates i p .size ∧ ¬Violates i p .filter ∧ ¬Violates i p .round ∧ ¬Violates i p .weight ∧
        Violates i p .stride) ∧
    (check p = some .align ↔
      ¬Violates i p .size ∧ ¬Violates i p .filter ∧ ¬Violates i p .round ∧ ¬Violates i p .weight ∧
        ¬Violates i p .stride ∧ Violates i p .align) ∧
    (check p = none ↔ Legal i p)) ∧
  (∀ (p : Snapshot) (x : FieldProblem), decode p.cmd = .error x → check p = some .illegalCmd) ∧
  check (State.reset.snapshotWith (encode .srTwoD)) = some .size

/-- 30_encoding.md R110: a legal command whose end is not the next event (the model's choice, log 2) is in flight: BUSY, with the
snapshot taken, DONE, ERR and ERR_CODE cleared, and memory and the other registers as before. -/
def Obligations.AcceptanceStartsCommand : Prop :=
  ∀ (i : Instr) (s : State), s.phase = .idle → engineNext s.events = false → Legal i (accepted i s) →
    ∃ tainted : Bool,
      exec i s = .next { acceptedState (encode i) s with phase := .busy, tainted := tainted, raced := [] }

/-- 30_encoding.md R111, 60_exceptions.md R247, R248, R250: a command that runs to its end, in the step that issues it or from the
state in which it is in flight, leaves the phase IDLE and exactly one of DONE and ERR set, ERR with code 8; it changes no
configuration register. A command in flight completes exactly when no access it makes is refused (log 24). -/
def Obligations.CommandEndsExactlyOneWay : Prop :=
  (∀ (i : Instr) (s : State), Runs i s →
    ∃ t : State, exec i s = .next t ∧ t.phase = .idle ∧ t.cmd = encode i ∧ t.regs = s.regs ∧ t.irqEn = s.irqEn ∧
      t.ksel = s.ksel ∧ t.ovr = s.ovr ∧
      ((t.done = true ∧ t.err = false ∧ t.errCode = 0) ∨ (t.done = false ∧ t.err = true ∧ t.errCode = 8))) ∧
  (∀ (i : Instr) (s : State), s.inFlight = some i → engineNext s.events = true →
    s.done = false → s.err = false → s.errCode = 0 →
    ∃ t : State, step s = .next t ∧ t.phase = .idle ∧ t.cmd = s.cmd ∧ t.regs = s.regs ∧ t.irqEn = s.irqEn ∧
      t.ksel = s.ksel ∧ t.ovr = s.ovr ∧ t.events = afterEngine s.events ∧
      (busRefuses i s = false → t.done = true ∧ t.err = false ∧ t.errCode = 0) ∧
      (busRefuses i s = true → t.done = false ∧ t.err = true ∧ t.errCode = 8))

/-- 60_exceptions.md R247: a refused access of the needed window, of the CBUF block or of the write footprint ends the command
with a bus error, in the step that issues it or, for a command in flight, at the engine's event; memory outside the write footprint
is as before. For kind 2D the needed window is the model's reading, `Kx` on every row of the window (log 8, DEDUCED). The refused
accesses are data of the model's State (log 6). -/
def Obligations.RefusedAccessIsBusError : Prop :=
  (∀ (i : Instr) (s : State), Runs i s → s.mem.wf → AccessRefused i (accepted i s) s.busHoles →
    ∃ m : Memory, exec i s = .next (busErrorState i s m) ∧
      ∀ a : Word, a ∉ writeFootprint i (accepted i s) → m.read8 a = s.mem.read8 a) ∧
  (∀ (i : Instr) (s : State), s.inFlight = some i → engineNext s.events = true → s.mem.wf →
    AccessRefused i s.snap s.busHoles →
    ∃ t : State, step s = .next t ∧ t.phase = .idle ∧ t.err = true ∧ t.errCode = 8 ∧ t.done = s.done ∧ t.ovr = s.ovr ∧
      (∀ r : Reg, r ≠ .status → readReg r t = readReg r s) ∧ t.events = afterEngine s.events ∧
      ∀ a : Word, a ∉ writeFootprint i s.snap → t.mem.read8 a = s.mem.read8 a)

/-! ## The commands: results, frame and completion -/

/-- 42_single_ref.md R191 to R193: conv.sr.copy, conv.sr.x and conv.sr.y complete with their samples in DST. -/
def Obligations.SrDirectResults : Prop :=
  ∀ s : State,
    (CanComplete .srCopy s → CompletesDst .srCopy s fun p m r c => sample p m r c) ∧
    (CanComplete .srX s → CompletesDst .srX s fun p m r c =>
      clip8 (roundShift (roundShift (hs p m r c) p.r0) (7 - p.r0))) ∧
    (CanComplete .srY s → CompletesDst .srY s fun p m r c => clip8 (roundShift (vs p m r c) 7))

/-- 42_single_ref.md R194: conv.sr.2d completes with its samples in DST, computed on unbounded integers. -/
def Obligations.SrTwoDResult : Prop :=
  ∀ s : State, CanComplete .srTwoD s → CompletesDst .srTwoD s fun p m r c => singleTwoDPure p m r c

/-- 42_single_ref.md R195: conv.sr.auto completes with the samples of the kind its phases resolve to. -/
def Obligations.SrAutoResult : Prop :=
  ∀ s : State, CanComplete .srAuto s → CompletesDst .srAuto s fun p m r c => singleAuto p m r c

/-- 43_compound.md R217 to R219: conv.cmp.copy, conv.cmp.x and conv.cmp.y complete with their predictions in CBUF. -/
def Obligations.CmpDirectResults : Prop :=
  ∀ s : State,
    (CanComplete .cmpCopy s → CompletesCbuf .cmpCopy s fun p m r c => shl (sample p m r c) p.rb + p.ro) ∧
    (CanComplete .cmpX s → CompletesCbuf .cmpX s fun p m r c =>
      shl (roundShift (hs p m r c) p.r0) (7 - p.r1) + p.ro) ∧
    (CanComplete .cmpY s → CompletesCbuf .cmpY s fun p m r c =>
      roundShift (shl (vs p m r c) (7 - p.r0)) p.r1 + p.ro)

/-- 43_compound.md R220: conv.cmp.2d completes with its predictions in CBUF, computed on unbounded integers. -/
def Obligations.CmpTwoDResult : Prop :=
  ∀ s : State, CanComplete .cmpTwoD s → CompletesCbuf .cmpTwoD s fun p m r c => vrPure p m r c

/-- 43_compound.md R221: conv.cmp.auto completes with the predictions of the kind its phases resolve to. -/
def Obligations.CmpAutoResult : Prop :=
  ∀ s : State, CanComplete .cmpAuto s → CompletesCbuf .cmpAuto s fun p m r c => predAuto p m r c

/-- 43_compound.md R222 to R224: conv.avg.copy, conv.avg.x and conv.avg.y complete with their blend in DST. -/
def Obligations.AvgDirectResults : Prop :=
  ∀ s : State,
    (CanComplete .avgCopy s → CompletesDst .avgCopy s (avgOut predCopy)) ∧
    (CanComplete .avgX s → CompletesDst .avgX s (avgOut predX)) ∧
    (CanComplete .avgY s → CompletesDst .avgY s (avgOut predY))

/-- 43_compound.md R225: conv.avg.2d completes with its blend in DST. -/
def Obligations.AvgTwoDResult : Prop :=
  ∀ s : State, CanComplete .avgTwoD s → CompletesDst .avgTwoD s (avgOut vrPure)

/-- 43_compound.md R226: conv.avg.auto completes with the blend of the kind its phases resolve to. -/
def Obligations.AvgAutoResult : Prop :=
  ∀ s : State, CanComplete .avgAuto s → CompletesDst .avgAuto s (avgOut predAuto)

/-- 43_compound.md R227 to R229: conv.jnt.copy, conv.jnt.x and conv.jnt.y complete with their weighted blend in DST. -/
def Obligations.JntDirectResults : Prop :=
  ∀ s : State,
    (CanComplete .jntCopy s → CompletesDst .jntCopy s (jntOut predCopy)) ∧
    (CanComplete .jntX s → CompletesDst .jntX s (jntOut predX)) ∧
    (CanComplete .jntY s → CompletesDst .jntY s (jntOut predY))

/-- 43_compound.md R230: conv.jnt.2d completes with its weighted blend in DST. -/
def Obligations.JntTwoDResult : Prop :=
  ∀ s : State, CanComplete .jntTwoD s → CompletesDst .jntTwoD s (jntOut vrPure)

/-- 43_compound.md R231: conv.jnt.auto completes with the weighted blend of the kind its phases resolve to. -/
def Obligations.JntAutoResult : Prop :=
  ∀ s : State, CanComplete .jntAuto s → CompletesDst .jntAuto s (jntOut predAuto)

/-- 20_memory.md R77, 43_compound.md R232: a command that completes leaves every byte of its read footprint, the reference
window and for AVG and JNT the CBUF block, as it was. -/
def Obligations.CompletionKeepsReadFootprint : Prop :=
  ∀ (i : Instr) (s t : State), CanComplete i s → exec i s = .next t →
    ∀ a ∈ readFootprint i (accepted i s), t.mem.read8 a = s.mem.read8 a

/-! ## The filter bank -/

/-- 40_filter_bank.md R137: every tap of the ROM is even, the taps of a kernel sum to 128, phase 0 is the identity, the tables
but BILINEAR mirror and BILINEAR pairs its two taps, every tap lies in -24 .. 128 and every halved tap in -12 .. 64, and a tap
sum of 8-bit samples lies in -14280 .. 46920. -/
def Obligations.KernelRomProperties : Prop :=
  (∀ (st : Style) (ph : BitVec 4), ∀ k < 8, (kernelOf st ph).tap k % 2 = 0) ∧
  (∀ (st : Style) (ph : BitVec 4), (kernelOf st ph).taps.sum = 128) ∧
  (∀ st : Style, kernelOf st 0 = ⟨0, 0, 0, 128, 0, 0, 0, 0⟩) ∧
  (∀ (st : Style) (ph : BitVec 4), st ≠ .bilinear → ph ≠ 0 → ∀ k < 8,
    (kernelOf st ph).tap k = (kernelOf st (16 - ph)).tap (7 - k)) ∧
  (∀ ph : BitVec 4, ph ≠ 0 → (kernelOf .bilinear ph).tap 3 = (kernelOf .bilinear (16 - ph)).tap 4) ∧
  (∀ (st : Style) (ph : BitVec 4), ∀ k < 8,
    -24 ≤ (kernelOf st ph).tap k ∧ (kernelOf st ph).tap k ≤ 128 ∧
    -12 ≤ (kernelOf st ph).tap k / 2 ∧ (kernelOf st ph).tap k / 2 ≤ 64) ∧
  (∀ (st : Style) (ph : BitVec 4) (x : Nat → Int), (∀ k, 0 ≤ x k ∧ x k ≤ 255) →
    -14280 ≤ tapSum (kernelOf st ph) x ∧ tapSum (kernelOf st ph) x ≤ 46920)

/-- 40_filter_bank.md R139, R140: with SIZE4 set and a block dimension of 4 or less, REGULAR and SHARP become REGULAR_4 and
SMOOTH becomes SMOOTH_4; otherwise the style is used as written. The dimension is W for FILT_X and H for FILT_Y, and the kernel
is the ROM's for the effective style and the phase. -/
def Obligations.SmallBlockSubstitution : Prop :=
  (∀ (st : Style) (size4 : Bool) (n : Nat),
    (size4 = true → n ≤ 4 → st = .regular ∨ st = .sharp → effStyle st size4 n = .regular4) ∧
    (size4 = true → n ≤ 4 → st = .smooth → effStyle st size4 n = .smooth4) ∧
    (size4 = false ∨ 4 < n ∨ st = .bilinear ∨ st = .regular4 ∨ st = .smooth4 → effStyle st size4 n = st)) ∧
  (∀ (p : Snapshot) (st : Style), styleOf p.sx = some st → p.kx = kernelOf (effStyle st p.zx p.w) p.px) ∧
  (∀ (p : Snapshot) (st : Style), styleOf p.sy = some st → p.ky = kernelOf (effStyle st p.zy p.h) p.py)

/-- 40_filter_bank.md R143, R144: what the readout registers show for every KSEL, at the time of the read and whatever the
engine does: the table that the STYLE field names (R138) and its class (R141). -/
def Obligations.KernelReadout : Prop :=
  (∀ (n : BitVec 3) (st : Style) (cls : Word),
    (n, st, cls) ∈ [((0 : BitVec 3), Style.regular, (8 : Word)), (1, .smooth, 8), (2, .sharp, 8), (3, .bilinear, 2),
      (4, .regular4, 4), (5, .smooth4, 4)] →
    ∀ s : State, s.ksel.extractLsb' 8 3 = n →
      (readReg .ktap01 s).extractLsb' 0 16 = BitVec.ofInt 16 ((kernelOf st (s.ksel.extractLsb' 0 4)).tap 0) ∧
      (readReg .ktap01 s).extractLsb' 16 16 = BitVec.ofInt 16 ((kernelOf st (s.ksel.extractLsb' 0 4)).tap 1) ∧
      (readReg .ktap23 s).extractLsb' 0 16 = BitVec.ofInt 16 ((kernelOf st (s.ksel.extractLsb' 0 4)).tap 2) ∧
      (readReg .ktap23 s).extractLsb' 16 16 = BitVec.ofInt 16 ((kernelOf st (s.ksel.extractLsb' 0 4)).tap 3) ∧
      (readReg .ktap45 s).extractLsb' 0 16 = BitVec.ofInt 16 ((kernelOf st (s.ksel.extractLsb' 0 4)).tap 4) ∧
      (readReg .ktap45 s).extractLsb' 16 16 = BitVec.ofInt 16 ((kernelOf st (s.ksel.extractLsb' 0 4)).tap 5) ∧
      (readReg .ktap67 s).extractLsb' 0 16 = BitVec.ofInt 16 ((kernelOf st (s.ksel.extractLsb' 0 4)).tap 6) ∧
      (readReg .ktap67 s).extractLsb' 16 16 = BitVec.ofInt 16 ((kernelOf st (s.ksel.extractLsb' 0 4)).tap 7) ∧
      readReg .kinfo s = cls) ∧
  (∀ s : State, s.ksel.extractLsb' 8 3 = 6 ∨ s.ksel.extractLsb' 8 3 = 7 →
    readReg .ktap01 s = 0 ∧ readReg .ktap23 s = 0 ∧ readReg .ktap45 s = 0 ∧ readReg .ktap67 s = 0 ∧
      readReg .kinfo s = 0) ∧
  (∀ s : State, s.ksel = 0x0208 →
    readReg .ktap01 s = 0x000CFFFC ∧ readReg .ktap23 s = 0x0050FFE8 ∧ readReg .ktap45 s = 0xFFE80050 ∧
      readReg .ktap67 s = 0xFFFC000C ∧ readReg .kinfo s = 8) ∧
  (∀ s : State, s.ksel = 0x0300 → readReg .kinfo s = 2)

/-! ## The datapath -/

/-- 00_scope.md R11, R12: the rounding and saturation primitives. -/
def Obligations.RoundingPrimitives : Prop :=
  (∀ v : Int, roundShift v 0 = v) ∧
  (∀ (v : Int) (n : Nat), 1 ≤ n → roundShift v n = (v + 2 ^ (n - 1)) / 2 ^ n) ∧
  (∀ v : Int, (v < 0 → clip8 v = 0) ∧ (255 < v → clip8 v = 255) ∧ (0 ≤ v → v ≤ 255 → clip8 v = v))

/-- 41_datapath.md R161, R162: the filter sums, tap `k` on the sample at offset `k - 3`; they lie in -14280 .. 46920. -/
def Obligations.FilterSums : Prop :=
  ∀ (p : Snapshot) (m : Memory) (r c : Int),
    hs p m r c = ∑ k ∈ Finset.range 8, p.kx.tap k * sample p m r (c - 3 + k) ∧
    vs p m r c = ∑ k ∈ Finset.range 8, p.ky.tap k * sample p m (r - 3 + k) c ∧
    -14280 ≤ hs p m r c ∧ hs p m r c ≤ 46920 ∧ -14280 ≤ vs p m r c ∧ vs p m r c ≤ 46920

/-- 42_single_ref.md R190, 43_compound.md R210: the constants of a command under legal rounding. -/
def Obligations.CommandConstants : Prop :=
  (∀ p : Snapshot, LegalRoundSr p → p.rb = 0 ∧ p.ob - p.r1 = 8 ∧ p.ro = 384) ∧
  (∀ p : Snapshot, LegalRoundCompound p →
    p.ob = 22 - p.r0 ∧ p.ro = 2 ^ (p.ob - p.r1) + 2 ^ (p.ob - p.r1 - 1) ∧ p.rb = 14 - p.r0 - p.r1 ∧
    p.r0 + p.r1 ≤ 14 ∧ p.rb ≤ 6 ∧ 7 - p.r0 ≤ 6 ∧ 7 - p.r1 ≤ 6 ∧ 7 ≤ p.ob - p.r1 - 1 ∧
    (p.r0 = 3 → p.r1 = 7 → p.ro = 6144 ∧ p.rb = 4))

/-- 41_datapath.md R164: the halved-tap form gives the value of the full-tap form, with the 2-D offset and without it. -/
def Obligations.HalvedTapFormAgrees : Prop :=
  ∀ (st : Style) (ph : BitVec 4) (x : Nat → Int) (r0 : Nat), 1 ≤ r0 →
    roundShift (hoff + tapSum (kernelOf st ph) x) r0 =
      asr (asr hoff 1 + (∑ k ∈ Finset.range 8, asr ((kernelOf st ph).tap k) 1 * x k) + asr (shl 1 (r0 - 1)) 1) (r0 - 1) ∧
    roundShift (tapSum (kernelOf st ph) x) r0 =
      asr ((∑ k ∈ Finset.range 8, asr ((kernelOf st ph).tap k) 1 * x k) + asr (shl 1 (r0 - 1)) 1) (r0 - 1)

/-- 41_datapath.md R163: for legal `r0`, each of the rows -3 .. H+3 of IM holds the rounded sum after its signed 16-bit store:
`HOFF + HS` lies in 2104 .. 63304, and the stored value in 16 .. 31652. -/
def Obligations.IntermediateBufferNeverWraps : Prop :=
  ∀ s : State, 1 ≤ s.snap.r0 → s.snap.r0 ≤ 7 →
    ∀ i c : Int, -3 ≤ i → i ≤ s.snap.h + 3 → 0 ≤ c → c < s.snap.w →
      2104 ≤ 16384 + hs s.snap s.mem i c ∧ 16384 + hs s.snap s.mem i c ≤ 63304 ∧
      imAt (horizontalPass s) i c = roundShift (16384 + hs s.snap s.mem i c) s.snap.r0 ∧
      16 ≤ imAt (horizontalPass s) i c ∧ imAt (horizontalPass s) i c ≤ 31652

/-- 41_datapath.md R165: for legal `r0`, the 2-D vertical sum of every block position lies in 7992 .. 7862208. -/
def Obligations.VerticalSumFits : Prop :=
  ∀ s : State, 1 ≤ s.snap.r0 → s.snap.r0 ≤ 7 → ∀ r < s.snap.h, ∀ c < s.snap.w,
    v2 (horizontalPass s) r c =
      2 ^ (22 - s.snap.r0) + ∑ k ∈ Finset.range 8, s.snap.ky.tap k * imAt (horizontalPass s) (r - 3 + k) c ∧
    7992 ≤ v2 (horizontalPass s) r c ∧ v2 (horizontalPass s) r c ≤ 7862208

/-- 43_compound.md R216: for every legal compound configuration the prediction of every kind lies in 62 .. 61476; for the
profile (3, 7) it lies in the bounds of its kind. -/
def Obligations.PredictionRange : Prop :=
  ∀ (p : Snapshot) (m : Memory) (r c : Int), LegalRoundCompound p →
    (62 ≤ predCopy p m r c ∧ predCopy p m r c ≤ 61476) ∧
    (62 ≤ predX p m r c ∧ predX p m r c ≤ 61476) ∧
    (62 ≤ predY p m r c ∧ predY p m r c ≤ 61476) ∧
    (62 ≤ vrPure p m r c ∧ vrPure p m r c ≤ 61476) ∧
    (p.r0 = 3 → p.r1 = 7 →
      (6144 ≤ predCopy p m r c ∧ predCopy p m r c ≤ 10224) ∧
      (4359 ≤ predX p m r c ∧ predX p m r c ≤ 12009) ∧
      (4359 ≤ predY p m r c ∧ predY p m r c ≤ 12009) ∧
      (1012 ≤ vrPure p m r c ∧ vrPure p m r c ≤ 15356))

/-- 42_single_ref.md R196: with both phases 0 the 2-D sample is the copied sample, with `py = 0` it is the sample of conv.sr.x,
and with `px = 0` that of conv.sr.y, for every legal single-reference snapshot and all samples. -/
def Obligations.SinglePathsAgree : Prop :=
  ∀ (p : Snapshot) (m : Memory) (r c : Int), LegalRoundSr p → (styleOf p.sx).isSome → (styleOf p.sy).isSome →
    (p.px = 0 → p.py = 0 → singleTwoDPure p m r c = sample p m r c) ∧
    (p.py = 0 → singleTwoDPure p m r c = singleX p m r c) ∧
    (p.px = 0 → singleTwoDPure p m r c = singleY p m r c)

/-- 43_compound.md R233: the prediction of kinds COPY, X and Y is that of kind 2D with the skipped phases 0, for every legal
compound snapshot and all samples. -/
def Obligations.CompoundPathsAgree : Prop :=
  ∀ (p : Snapshot) (m : Memory) (r c : Int), LegalRoundCompound p → (styleOf p.sx).isSome → (styleOf p.sy).isSome →
    (p.px = 0 → p.py = 0 → predCopy p m r c = vrPure p m r c) ∧
    (p.py = 0 → predX p m r c = vrPure p m r c) ∧
    (p.px = 0 → predY p m r c = vrPure p m r c)

/-- 42_single_ref.md R196, 43_compound.md R233: in every mode the AUTO command leaves the memory that the 2-D command leaves, and
so do the copy, X and Y commands where the phases they do not use are 0, wherever both complete. -/
def Obligations.PathsMatchTwoD : Prop :=
  ∀ (m : Mode) (k : Kind) (s : State),
    (k = .auto ∨
      (k = .copy ∧ (accepted (instrOf m k) s).px = 0 ∧ (accepted (instrOf m k) s).py = 0) ∨
      (k = .x ∧ (accepted (instrOf m k) s).py = 0) ∨
      (k = .y ∧ (accepted (instrOf m k) s).px = 0)) →
    CanComplete (instrOf m k) s → CanComplete (instrOf m .twoD) s →
      ∃ t u : State, exec (instrOf m k) s = .next t ∧ exec (instrOf m .twoD) s = .next u ∧ t.mem = u.mem

/-- 42_single_ref.md, corner cases of conv.sr.y; 90_conflicts.md C14: for `r0` in 1 .. 6 the two rounding stages of conv.sr.x
exceed the single stage of conv.sr.y by one exactly when the sum modulo 128 lies in `64 - 2^(r0-1) .. 63`; for `r0 = 7` they
agree. -/
def Obligations.TwoStageRoundingDiffers : Prop :=
  ∀ (h : Int) (r0 : Nat), 1 ≤ r0 → r0 ≤ 7 →
    roundShift (roundShift h r0) (7 - r0) =
      roundShift h 7 + (if r0 ≤ 6 ∧ 64 - 2 ^ (r0 - 1) ≤ h % 128 ∧ h % 128 ≤ 63 then 1 else 0)

/-- 42_single_ref.md R197: BILINEAR phase 8 is the kernel with taps 3 and 4 of 64, and gives the rounded average of two adjacent
samples on both 1-D paths, and on the 2-D path with the other phase 0 under legal rounding. -/
def Obligations.HalfPelAverage : Prop :=
  kernelOf .bilinear 8 = ⟨0, 0, 0, 64, 64, 0, 0, 0⟩ ∧
  (∀ (p : Snapshot) (m : Memory) (r c : Int), 1 ≤ p.r0 → p.r0 ≤ 7 →
    (p.sx = 3 → p.px = 8 → singleX p m r c = (sample p m r c + sample p m r (c + 1) + 1) / 2) ∧
    (p.sy = 3 → p.py = 8 → singleY p m r c = (sample p m r c + sample p m (r + 1) c + 1) / 2)) ∧
  (∀ (p : Snapshot) (m : Memory) (r c : Int), LegalRoundSr p → p.sx = 3 → p.sy = 3 →
    (p.px = 8 → p.py = 0 → singleTwoDPure p m r c = (sample p m r c + sample p m r (c + 1) + 1) / 2) ∧
    (p.px = 0 → p.py = 8 → singleTwoDPure p m r c = (sample p m r c + sample p m (r + 1) c + 1) / 2))

/-- 41_datapath.md R168, R169; 43_compound.md section 5: the simple average is symmetric; the weighted average lies between its
operands, is the simple average for weights (8, 8), and is one operand for weights (16, 0) and (0, 16). -/
def Obligations.BlendLaws : Prop :=
  (∀ a b : Int, blendAvg a b = blendAvg b a) ∧
  (∀ (p : Snapshot) (a b : Int), p.fwd + p.bck = 16 →
    min a b ≤ blendJnt p a b ∧ blendJnt p a b ≤ max a b ∧
    (p.fwd = 8 → blendJnt p a b = blendAvg a b) ∧
    (p.fwd = 16 → blendJnt p a b = a) ∧ (p.fwd = 0 → blendJnt p a b = b))

/-! ## The register block -/

/-- 10_state.md R32, R37 to R49: a host write to a read-write register other than STATUS and CMD, at the offset the table lists
for it, and a later read of it: it reads the written value with the reserved bits 0; every other register but, for KSEL, the
kernel readout reads as before, and the engine and memory are as before. -/
def Obligations.RegisterWriteReadBack : Prop :=
  ∀ (s : State) (off : BitVec 8) (v : Word) (es : List Event) (r : Reg) (mask : Word),
    (off, r, mask) ∈ [((0x0C : BitVec 8), Reg.irqEn, (0x00000003 : Word)), (0x10, .srcBase, 0xFFFFFFFF),
      (0x14, .srcStride, 0x0000FFFF), (0x18, .dstBase, 0xFFFFFFFF), (0x1C, .dstStride, 0x0000FFFF),
      (0x20, .cbufBase, 0xFFFFFFFF), (0x24, .cbufStride, 0x0000FFFF), (0x28, .blkSize, 0x00FF00FF),
      (0x2C, .filtX, 0x0000170F), (0x30, .filtY, 0x0000170F), (0x34, .round, 0x00000F0F), (0x38, .weight, 0x00001F1F),
      (0x40, .ksel, 0x0000070F)] →
    s.events = .regWrite .word off v :: es →
    ∃ t : State, step s = .next t ∧ readReg r t = v &&& mask ∧
      (∀ q : Reg, q ≠ r →
        (r = .ksel → q ≠ .ktap01 ∧ q ≠ .ktap23 ∧ q ≠ .ktap45 ∧ q ≠ .ktap67 ∧ q ≠ .kinfo) → readReg q t = readReg q s) ∧
      t.phase = s.phase ∧ t.snap = s.snap ∧ t.im = s.im ∧ t.mem = s.mem ∧ t.events = es

/-- 10_state.md R32, 20_memory.md R80: a read at each listed offset returns the value of the register the table lists there and has
no side effect; an aligned offset that the table does not list reads 0 and ignores writes; a write to a read-only register is
ignored; and the host reaches an offset at `SCE_MMIO_BASE` plus it, an open constant (log 14). Aligned is by the offset (log 30). That a read's value stands in `rdata`
is the model's choice (log 16). -/
def Obligations.RegisterReadsAndIgnoredWrites : Prop :=
  (∀ (s : State) (off : BitVec 8) (es : List Event) (r : Reg),
    (off, r) ∈ [((0x00 : BitVec 8), Reg.id), (0x04, .status), (0x08, .cmd), (0x0C, .irqEn), (0x10, .srcBase),
      (0x14, .srcStride), (0x18, .dstBase), (0x1C, .dstStride), (0x20, .cbufBase), (0x24, .cbufStride), (0x28, .blkSize),
      (0x2C, .filtX), (0x30, .filtY), (0x34, .round), (0x38, .weight), (0x40, .ksel), (0x44, .ktap01), (0x48, .ktap23),
      (0x4C, .ktap45), (0x50, .ktap67), (0x54, .kinfo)] →
    s.events = .regRead .word off :: es →
      step s = .next { s with rdata := readReg r s, events := es }) ∧
  (∀ (s : State) (off : BitVec 8) (es : List Event),
    off.toNat % 4 = 0 → off = 0x3C ∨ 0x58 ≤ off → s.events = .regRead .word off :: es →
      step s = .next { s with rdata := 0, events := es }) ∧
  (∀ (s : State) (off : BitVec 8) (v : Word) (es : List Event),
    off.toNat % 4 = 0 →
    off = 0x3C ∨ 0x58 ≤ off ∨ off ∈ [(0x00 : BitVec 8), 0x44, 0x48, 0x4C, 0x50, 0x54] →
    s.events = .regWrite .word off v :: es → step s = .next { s with events := es }) ∧
  (∀ (off : BitVec 8) (size : AccessSize) (v : Word),
    hostLoadEvent size (Config.mmioBase + off.setWidth 32) = .regRead size off ∧
    hostStoreEvent size (Config.mmioBase + off.setWidth 32) v = .regWrite size off v)

/-- 10_state.md R32, 93_implementation_defined.md A2: a register access that is not an aligned 32-bit access is refused, as a refusal
of the model (log 15). That an access is aligned by its offset in the block is the model's choice (log 30). -/
def Obligations.SubWordAccessRefused : Prop :=
  ∀ (s : State) (size : AccessSize) (off : BitVec 8) (v : Word) (es : List Event),
    size ≠ .word ∨ off.toNat % 4 ≠ 0 →
    (s.events = .regWrite size off v :: es → step s = .refused .subWordMmio) ∧
    (s.events = .regRead size off :: es → step s = .refused .subWordMmio)

/-- 10_state.md R35: a STATUS write clears DONE, ERR with ERR_CODE, and OVR where its bits 1, 2 and 3 are set, and does nothing
else. -/
def Obligations.StatusWriteClears : Prop :=
  ∀ (s : State) (v : Word) (es : List Event), s.events = .regWrite .word 0x04 v :: es →
    step s = .next { s with
      done := if v.getLsbD 1 then false else s.done
      err := if v.getLsbD 2 then false else s.err
      errCode := if v.getLsbD 2 then 0 else s.errCode
      ovr := if v.getLsbD 3 then false else s.ovr
      events := es }

/-- 10_state.md R34, 60_exceptions.md R249: the fields of the word STATUS reads, and the interrupt output as a function of the
readable words; the platform's input `IRQ_LINE`, an open constant (log 17), follows it, and SCE drives no other. -/
def Obligations.StatusWordAndInterrupt : Prop :=
  ∀ s : State,
    (readReg .status s).getLsbD 0 = decide (s.phase = .busy) ∧
    (readReg .status s).getLsbD 1 = s.done ∧
    (readReg .status s).getLsbD 2 = s.err ∧
    (readReg .status s).getLsbD 3 = s.ovr ∧
    (readReg .status s).extractLsb' 4 4 = 0 ∧
    (readReg .status s).extractLsb' 8 4 = s.errCode ∧
    (readReg .status s).extractLsb' 12 20 = 0 ∧
    irq s = (((readReg .status s).getLsbD 1 && (readReg .irqEn s).getLsbD 0) ||
      ((readReg .status s).getLsbD 2 && (readReg .irqEn s).getLsbD 1)) ∧
    irqInput s Config.irqLine = irq s ∧ ∀ line : Nat, line ≠ Config.irqLine → irqInput s line = false

/-! ## Reset -/

/-- 10_state.md R58: what the registers read after reset, the phase and the interrupt output. -/
def Obligations.ResetValues : Prop :=
  readReg .id State.reset = 0x53434501 ∧
  (∀ r ∈ [Reg.status, .cmd, .irqEn, .srcBase, .srcStride, .dstBase, .dstStride, .cbufBase, .cbufStride, .blkSize,
    .filtX, .filtY, .round, .weight, .ksel, .ktap01, .ktap45, .ktap67], readReg r State.reset = 0) ∧
  readReg .ktap23 State.reset = 0x00800000 ∧ readReg .kinfo State.reset = 8 ∧
  State.reset.phase = .idle ∧ irq State.reset = false

/-- 70_reset_and_hazards.md R270, R271: after the reset event every register reads its reset value, the phase is IDLE and the
interrupt output 0. Memory is as before; if a command was in flight, every byte outside its write footprint is. What of the model's
own fields reset leaves is log 28. -/
def Obligations.ResetEventClears : Prop :=
  ∀ (s : State) (es : List Event), s.events = .reset :: es →
    ∃ t : State, step s = .next t ∧ t.events = es ∧ (∀ r : Reg, readReg r t = readReg r State.reset) ∧
      t.phase = .idle ∧ irq t = false ∧
      (s.inFlight = none → t.mem = s.mem) ∧
      (∀ i : Instr, s.inFlight = some i → s.mem.wf →
        ∀ a : Word, a ∉ writeFootprint i s.snap → t.mem.read8 a = s.mem.read8 a)

/-- 70_reset_and_hazards.md R272: after reset the first CMD write is accepted and refused with SIZE for a legal word and
ILLEGAL_CMD for an illegal one, with no memory access; and no command starts until BLK_SIZE and ROUND are both written: while one of
them is 0 every CMD write to an IDLE engine ends in an error, and only a host write to the register itself takes it from 0. -/
def Obligations.AfterResetCommandsAreRefused : Prop :=
  (∀ v : Word, ∃ t : State,
    step { State.reset with events := [.regWrite .word cmdOffset v] } = .next t ∧
    t.phase = .idle ∧ t.cmd = v ∧ t.err = true ∧ t.mem = State.reset.mem ∧
    (∀ i : Instr, decode v = .ok i → t.errCode = 2) ∧ (∀ x, decode v = .error x → t.errCode = 1)) ∧
  (∀ (s : State) (v : Word) (es : List Event),
    s.phase = .idle → s.regs.blkSize = 0 ∨ s.regs.round = 0 → s.events = .regWrite .word cmdOffset v :: es →
      ∃ t : State, step s = .next t ∧ t.phase = .idle ∧ t.err = true ∧ t.done = false ∧ t.mem = s.mem) ∧
  (∀ s t : State, step s = .next t →
    (s.regs.blkSize = 0 → t.regs.blkSize ≠ 0 → ∃ v es, s.events = .regWrite .word 0x28 v :: es) ∧
    (s.regs.round = 0 → t.regs.round ≠ 0 → ∃ v es, s.events = .regWrite .word 0x34 v :: es))

/-! ## The whole machine -/

/-- The invariant holds after reset: by the values of 10_state.md R58, and by the model's choices for memory and SNAP (logs 3
and 4). -/
def Obligations.ResetSatisfiesInvariant : Prop := MachineInv State.reset

/-- Every step keeps the invariant: memory stays canonical, reserved bits stay 0, ERR_CODE agrees with ERR, DONE and ERR exclude
each other, a BUSY engine has neither and runs a legal command, and CMD reads the word of the snapshot (10_state.md R32, R34,
R53, R56; 60_exceptions.md R241, R250). Some of it rests on the model's choices: the canonical form of memory is log 3's, and after the
reset event, where 10_state.md R56 and R58 leave SNAP unspecified, the clauses on SNAP (CMD reads its word, its reserved bits are 0)
hold only by log 4 (SNAP zero at reset, unsafe). -/
def Obligations.StepKeepsInvariant : Prop :=
  ∀ s t : State, MachineInv s → step s = .next t → MachineInv t

/-- From a state of the invariant no step faults, and the only refusal is that of a register access that is not an aligned
32-bit access, aligned by its offset (log 30): the model's stops are those of logs 15 and 19. -/
def Obligations.InvariantExcludesStops : Prop :=
  ∀ s : State, MachineInv s →
    (∀ f, step s ≠ .fault f) ∧
    (∀ f, step s = .refused f → f = .subWordMmio ∧
      ∃ size off es, (size ≠ .word ∨ off.toNat % 4 ≠ 0) ∧
        ((∃ v, s.events = .regWrite size off v :: es) ∨ s.events = .regRead size off :: es))

/-- 10_state.md R52, R53, 60_exceptions.md R255: when the phase and the flags change. The phase goes from IDLE to BUSY only at
acceptance of a command that passes its checks, and from BUSY to IDLE only at the end of the command or at reset. DONE rises only at
the end of a command none of whose accesses is refused; ERR only at a refused CMD write, with the code of the failing check, or at
the end of a command with a refused access, with code 8; OVR only at a CMD write while BUSY. DONE and ERR fall only at a STATUS write
with their bit, a CMD write to an IDLE engine, or reset (OVR: `OverrunDropsWord`). An IDLE engine's event changes nothing. That a
command may end in the step that issues it is the model's choice (log 2). -/
def Obligations.PhaseChangesOnlyByRule : Prop :=
  (∀ s t : State, s.phase = .idle → step s = .next t → t.phase = .busy →
    ∃ v es i, s.events = .regWrite .word cmdOffset v :: es ∧ decode v = .ok i ∧ Legal i (s.snapshotWith v)) ∧
  (∀ s t : State, s.phase = .busy → step s = .next t → t.phase = .idle →
    s.events = [] ∨ ∃ es, s.events = .engine :: es ∨ s.events = .reset :: es) ∧
  (∀ s t : State, s.done = false → step s = .next t → t.done = true →
    ∃ i p, EndsCommand i p s ∧ busRefuses i { s with snap := p } = false) ∧
  (∀ s t : State, s.err = false → step s = .next t → t.err = true →
    (s.phase = .idle ∧ ∃ v e, NextIsCmdWrite v s ∧ check (s.snapshotWith v) = some e ∧ t.errCode = e.code) ∨
    (t.errCode = 8 ∧ ∃ i p, EndsCommand i p s ∧ busRefuses i { s with snap := p } = true)) ∧
  (∀ s t : State, s.ovr = false → step s = .next t → t.ovr = true → s.phase = .busy ∧ ∃ v, NextIsCmdWrite v s) ∧
  (∀ s t : State, s.done = true → step s = .next t → t.done = false →
    (∃ v es, s.events = .regWrite .word 0x04 v :: es ∧ v.getLsbD 1 = true) ∨
    (s.phase = .idle ∧ ∃ v, NextIsCmdWrite v s) ∨ ∃ es, s.events = .reset :: es) ∧
  (∀ s t : State, s.err = true → step s = .next t → t.err = false →
    (∃ v es, s.events = .regWrite .word 0x04 v :: es ∧ v.getLsbD 2 = true) ∨
    (s.phase = .idle ∧ ∃ v, NextIsCmdWrite v s) ∨ ∃ es, s.events = .reset :: es) ∧
  (∀ s : State, s.phase = .idle → engineNext s.events = true → step s = .next { s with events := afterEngine s.events })

/-- 20_memory.md R77, 60_exceptions.md R255, 70_reset_and_hazards.md R271: memory changes only at a CMD write to an IDLE engine,
at the end or the reset of a command in flight, or by another agent's store. -/
def Obligations.MemoryChangesOnlyByRule : Prop :=
  ∀ s t : State, step s = .next t → t.mem ≠ s.mem →
    (s.phase = .idle ∧ ∃ v es, s.events = .regWrite .word cmdOffset v :: es) ∨
    (s.phase = .busy ∧ (s.events = [] ∨ ∃ es, s.events = .engine :: es ∨ s.events = .reset :: es)) ∨
    (∃ size a v es, s.events = .memStore size a v :: es ∨ s.events = .otherStore size a v :: es) ∨
    ∃ es, s.events = .memFence :: es ∨ s.events = .memDrain :: es

/-- 10_state.md R56, 70_reset_and_hazards.md R279: a host write to any register but STATUS and CMD while a command is in flight
does not change what the command does. -/
def Obligations.SnapshotIsolatesCommand : Prop :=
  ∀ (s u : State) (off : BitVec 8) (v : Word) (r : Reg) (es : List Event),
    s.phase = .busy → regAt off = some r → r ≠ .status → r ≠ .cmd →
    step { s with events := .engine :: es } = .next u →
      ∃ w x : State, step { s with events := .regWrite .word off v :: .engine :: es } = .next w ∧ step w = .next x ∧
        x.mem = u.mem ∧ x.phase = u.phase ∧ x.done = u.done ∧ x.err = u.err ∧ x.errCode = u.errCode ∧ x.snap = u.snap

/-! ## Memory shared with other agents -/

/-- 20_memory.md R72, R83, R87: accesses to memory from outside the engine. With no command in flight and no posted store, a 32-bit
host load after a store to the same address reads the stored word, whose lowest byte lies at the address; a load of a byte that the
host has invalidated reads what memory holds; and so does any load, but of a stale byte on a platform that is not coherent (log 29).
At any time, a load and an invalidation leave memory as it is, a store of the host or of another agent performs its bytes, and each
of the four leaves every register, the phase and the snapshot as they are. `rdata`, and the byte order of a wider access, are the
model's choices (log 16). -/
def Obligations.HostStoreThenLoad : Prop :=
  (∀ (s : State) (a v : Word) (es : List Event),
    s.phase = .idle → s.posted = [] → s.mem.wf →
    s.events = .memStore .word a v :: .memLoad .word a :: es →
      ∃ t u : State, step s = .next t ∧ step t = .next u ∧ u.rdata = v ∧ u.mem.read8 a = v.setWidth 8 ∧
        (∀ b : Word, b ≠ a → b ≠ a + 1 → b ≠ a + 2 → b ≠ a + 3 → u.mem.read8 b = s.mem.read8 b) ∧
        (∀ r : Reg, readReg r u = readReg r s) ∧ u.phase = s.phase ∧ u.snap = s.snap ∧ u.events = es) ∧
  (∀ (s : State) (lo hi a : Word) (es : List Event),
    s.phase = .idle → s.posted = [] → lo ≤ a → a ≤ hi →
    s.events = .memInvalidate lo hi :: .memLoad .byte a :: es →
      ∃ t u : State, step s = .next t ∧ step t = .next u ∧ u.rdata = (s.mem.read8 a).setWidth 32 ∧ u.mem = s.mem ∧
        (∀ r : Reg, readReg r u = readReg r s) ∧ u.phase = s.phase ∧ u.snap = s.snap ∧ u.events = es) ∧
  (∀ (s : State) (a : Word) (es : List Event),
    s.phase = .idle → s.posted = [] → s.events = .memLoad .byte a :: es →
      ∃ t : State, step s = .next t ∧ t.mem = s.mem ∧
        (t.rdata = (s.mem.read8 a).setWidth 32 ∨ (a ∈ s.stale ∧ Config.platformCoherent = false))) ∧
  (∀ (s : State) (e : Event) (es : List Event),
    s.events = e :: es → ((∃ size a, e = .memLoad size a) ∨ ∃ lo hi, e = .memInvalidate lo hi) →
      ∃ t : State, step s = .next t ∧ t.mem = s.mem ∧
        (∀ r : Reg, readReg r t = readReg r s) ∧ t.phase = s.phase ∧ t.snap = s.snap ∧ t.events = es) ∧
  (∀ (s : State) (e : Event) (size : AccessSize) (a v : Word) (es : List Event),
    s.events = e :: es → e = .memStore size a v ∨ e = .otherStore size a v →
      ∃ t : State, step s = .next t ∧ t.mem = s.mem.writeAll (storeBytes size a v) ∧
        (∀ r : Reg, readReg r t = readReg r s) ∧ t.phase = s.phase ∧ t.snap = s.snap ∧ t.events = es)

/-- 20_memory.md R84: a posted store leaves memory as it is, while the host's own load already sees it; the fence makes all posted
bytes visible, in order, and a drain the oldest one. The registers and the phase are as before. The queue of posted bytes, and what
the host's own loads see, are the model's choices (logs 12 and 16), and so is that a posted byte is stored over what the engine wrote
meanwhile (log 31, unsafe). -/
def Obligations.PostedStoresBecomeVisible : Prop :=
  (∀ (s : State) (size : AccessSize) (a v : Word) (es : List Event), s.events = .memPost size a v :: es →
    ∃ t : State, step s = .next t ∧ t.mem = s.mem ∧ t.posted = s.posted ++ storeBytes size a v ∧
      (∀ r : Reg, readReg r t = readReg r s) ∧ t.phase = s.phase ∧ t.snap = s.snap ∧ t.events = es) ∧
  (∀ (s : State) (a v : Word) (es : List Event), s.events = .memPost .word a v :: .memLoad .word a :: es →
    ∃ t u : State, step s = .next t ∧ step t = .next u ∧ u.rdata = v ∧ u.mem = s.mem) ∧
  (∀ (s : State) (es : List Event), s.events = .memFence :: es →
    ∃ t : State, step s = .next t ∧ t.mem = s.mem.writeAll s.posted ∧ t.posted = [] ∧
      (∀ r : Reg, readReg r t = readReg r s) ∧ t.phase = s.phase ∧ t.snap = s.snap ∧ t.events = es) ∧
  (∀ (s : State) (w : ByteStore) (ws : List ByteStore) (es : List Event), s.posted = w :: ws → s.events = .memDrain :: es →
    ∃ t : State, step s = .next t ∧ t.mem = s.mem.write8 w.1 w.2 ∧ t.posted = ws ∧
      (∀ r : Reg, readReg r t = readReg r s) ∧ t.phase = s.phase ∧ t.snap = s.snap ∧ t.events = es)

/-- 70_reset_and_hazards.md R275, 20_memory.md R79: a host load of a byte while a command is in flight returns the old byte, or,
in the write footprint, the old or the new one; outside it, a stale byte on a platform that is not coherent is open (log 29). A load
of a CBUF element returns the old or the new element, never a mix. The load leaves memory, every register, the phase and the snapshot
as they are. Which value it returns is a free value (log 11); `rdata` is the model's choice (log 16). -/
def Obligations.EarlyReadSeesOldOrNew : Prop :=
  ∀ (s : State) (i : Instr) (a : Word) (es : List Event),
    s.inFlight = some i → s.posted = [] → check s.snap = none →
    (s.events = .memLoad .byte a :: es →
      ∃ t : State, step s = .next t ∧
        (t.rdata = (s.mem.read8 a).setWidth 32 ∨
          (a ∈ writeFootprint i s.snap ∧
            t.rdata = ((resultMemory i (passOf i s) s).read8 a).setWidth 32) ∨
          (a ∉ writeFootprint i s.snap ∧ a ∈ s.stale ∧ Config.platformCoherent = false)) ∧
        t.mem = s.mem ∧ (∀ r : Reg, readReg r t = readReg r s) ∧ t.phase = s.phase ∧ t.snap = s.snap ∧ t.events = es) ∧
    (i.mode = .cmp → a ∈ cbufElements s.snap → s.events = .memLoad .half a :: es →
      ∃ t : State, step s = .next t ∧
        (t.rdata = (s.mem.read16 a).setWidth 32 ∨
          t.rdata = ((resultMemory i (passOf i s) s).read16 a).setWidth 32) ∧
        t.mem = s.mem ∧ (∀ r : Reg, readReg r t = readReg r s) ∧ t.phase = s.phase ∧ t.snap = s.snap ∧ t.events = es)

/-- 70_reset_and_hazards.md R277: a command whose write footprint overlaps its read footprint completes as any other, with memory
outside the write footprint as before; nothing is said of the footprint. The model judges overlap on the full window (log
10). -/
def Obligations.OverlapStillCompletes : Prop :=
  ∀ (i : Instr) (s : State), Runs i s → BusAdmits i s → s.mem.wf → overlaps i (accepted i s) = true →
    ∃ m : Memory, exec i s = .next (completedState i s m) ∧
      ∀ a : Word, a ∉ writeFootprint i (accepted i s) → m.read8 a = s.mem.read8 a

/-- 70_reset_and_hazards.md R276, second part: a command whose inputs hold a host store that the engine cannot see yet, or whose
buffers lie in a region with read side effects, completes as any other, with memory outside the write footprint as before; nothing
is said of the footprint. The posted stores and the regions are data of the model's State (logs 12 and 26). -/
def Obligations.UnseenInputsStillComplete : Prop :=
  ∀ (i : Instr) (s : State), Runs i s → BusAdmits i s → s.mem.wf →
    awaitsPosted s.posted i (accepted i s) = true ∨ touchesDevice s.deviceRegions i (accepted i s) = true →
    ∃ m : Memory, exec i s = .next (completedState i s m) ∧
      ∀ a : Word, a ∉ writeFootprint i (accepted i s) → m.read8 a = s.mem.read8 a

/-- 70_reset_and_hazards.md R276: a store of the host, visible or posted, or of another agent into the read footprint of the command
in flight leaves its results unspecified and does not keep it from completing: DONE is set, and memory outside the write footprint is
that after the store, which a posted one has not changed yet. `tainted` is the model's own field (log 9), the queue of posted stores
too (log 12). -/
def Obligations.ChangedInputsStillComplete : Prop :=
  ∀ (s : State) (i : Instr) (e : Event) (a v : Word) (es : List Event),
    s.inFlight = some i → s.mem.wf → s.err = false → busRefuses i s = false → a ∈ readFootprint i s.snap →
    e = .memStore .byte a v ∨ e = .otherStore .byte a v ∨ e = .memPost .byte a v → s.events = e :: .engine :: es →
      ∃ t u : State, step s = .next t ∧ t.tainted = true ∧ step t = .next u ∧
        u.phase = .idle ∧ u.done = true ∧ u.err = false ∧ u.events = es ∧
        ∀ b : Word, b ∉ writeFootprint i s.snap →
          u.mem.read8 b = if b = a ∧ e ≠ .memPost .byte a v then v.setWidth 8 else s.mem.read8 b

/-- 70_reset_and_hazards.md R278, 20_memory.md R87: a byte that the host, by a visible or a posted store, or another agent stores in
the write footprint, and not in the read footprint, while the command runs: the command completes, every byte outside the write footprint is as before, and so is what it
leaves in every other element of the footprint, compared with the run without the store. Nothing is said of the element stored to;
that the host's stores are treated alike is the model's (log 18). -/
def Obligations.ConcurrentWriterLeavesElementOpen : Prop :=
  ∀ (s : State) (i : Instr) (e : Event) (a v : Word) (es : List Event),
    s.inFlight = some i → s.mem.wf → s.err = false → busRefuses i s = false →
    a ∈ writeFootprint i s.snap → a ∉ readFootprint i s.snap →
    e = .memStore .byte a v ∨ e = .otherStore .byte a v ∨ e = .memPost .byte a v → s.events = e :: .engine :: es →
      ∃ t u w : State, step s = .next t ∧ step t = .next u ∧ step { s with events := .engine :: es } = .next w ∧
        u.phase = .idle ∧ u.done = true ∧ u.err = false ∧ u.events = es ∧ w.done = true ∧
        (∀ b : Word, b ∉ writeFootprint i s.snap → u.mem.read8 b = s.mem.read8 b) ∧
        ∀ b ∈ writeFootprint i s.snap, b ≠ a → b ≠ elementMate i.mode a → u.mem.read8 b = w.mem.read8 b
end

