-- ==== Sys2Proof/Laws/Memory.lean ====
section
/-! SUPPORT. The laws of the memory operations: the canonical form is kept, and a byte reads as what was last written to it. -/

namespace Sys2Proof.Machine

@[simp] theorem Memory.lookup_nil (k : Nat) : Memory.lookup [] k = unlistedByte := rfl

theorem Memory.lookup_cons (c : Host.Cell) (m : Memory) (k : Nat) :
    Memory.lookup (c :: m) k = if c.1 = k then c.2 else Memory.lookup m k := rfl

/-- A key below every listed key reads as an unlisted byte. -/
theorem Memory.lookup_of_lt (m : Memory) (k : Nat) (h : ∀ c ∈ m, k < c.1) : Memory.lookup m k = unlistedByte := by
  induction m with
  | nil => rfl
  | cons c m ih =>
    have hc : k < c.1 := h c (by simp)
    rw [Memory.lookup_cons, if_neg (by omega)]
    exact ih fun d hd => h d (by simp [hd])

/-- The keys that a store leaves listed are old keys or the stored one. -/
theorem Memory.mem_store (m : Memory) (k : Nat) (b : Byte) (c : Host.Cell) (h : c ∈ Memory.store m k b) :
    c ∈ m ∨ (c = (k, b) ∧ b ≠ unlistedByte) := by
  induction m with
  | nil =>
    by_cases hb : b = unlistedByte
    · simp [Memory.store, hb] at h
    · simp [Memory.store, hb] at h
      exact .inr ⟨h, hb⟩
  | cons d m ih =>
    by_cases h1 : k < d.1 <;> by_cases h2 : k = d.1 <;> by_cases hb : b = unlistedByte <;>
      simp only [Memory.store, h1, h2, hb, if_true, if_false, List.mem_cons] at h ⊢ <;> grind

/-- A store keeps the canonical form. -/
theorem Memory.store_wf (m : Memory) (k : Nat) (b : Byte) (hk : k < 2 ^ 32) (h : Memory.wf m) :
    Memory.wf (Memory.store m k b) := by
  induction m with
  | nil => by_cases hb : b = unlistedByte <;> simp_all [Memory.store, Memory.wf]
  | cons d m ih =>
    obtain ⟨hp, ha⟩ := h
    rw [List.pairwise_cons] at hp
    have hd := ha d (by simp)
    have hm : Memory.wf m := ⟨hp.2, fun c hc => ha c (by simp [hc])⟩
    simp only [Memory.store]
    split_ifs with h1 h2 h3 h4
    · exact ⟨List.pairwise_cons.2 hp, ha⟩
    · refine ⟨List.pairwise_cons.2 ⟨fun c hc => ?_, List.pairwise_cons.2 hp⟩, fun c hc => ?_⟩
      · rcases List.mem_cons.1 hc with rfl | hc
        · exact h1
        · exact lt_trans h1 (hp.1 c hc)
      · rcases List.mem_cons.1 hc with rfl | hc
        · exact ⟨hk, h2⟩
        · exact ha c hc
    · exact hm
    · refine ⟨List.pairwise_cons.2 ⟨fun c hc => h3 ▸ hp.1 c hc, hp.2⟩, fun c hc => ?_⟩
      rcases List.mem_cons.1 hc with rfl | hc
      · exact ⟨hk, h4⟩
      · exact hm.2 c hc
    · obtain ⟨ip, ia⟩ := ih hm
      refine ⟨List.pairwise_cons.2 ⟨fun c hc => ?_, ip⟩, fun c hc => ?_⟩
      · rcases Memory.mem_store m k b c hc with hc | ⟨rfl, -⟩
        · exact hp.1 c hc
        · show d.1 < k
          omega
      · rcases List.mem_cons.1 hc with rfl | hc
        · exact hd
        · exact ia c hc

/-- What a key reads as after a store to a canonical memory. -/
theorem Memory.lookup_store (m : Memory) (k : Nat) (b : Byte) (j : Nat) (h : Memory.wf m) :
    Memory.lookup (Memory.store m k b) j = if j = k then b else Memory.lookup m j := by
  induction m with
  | nil => by_cases hb : b = unlistedByte <;> by_cases hj : j = k <;> simp_all [Memory.store, Memory.lookup, eq_comm]
  | cons d m ih =>
    obtain ⟨hp, ha⟩ := h
    rw [List.pairwise_cons] at hp
    have hm : Memory.wf m := ⟨hp.2, fun c hc => ha c (by simp [hc])⟩
    have hlow : ∀ n, n ≤ d.1 → Memory.lookup m n = unlistedByte := fun n hn =>
      Memory.lookup_of_lt m n fun c hc => lt_of_le_of_lt hn (hp.1 c hc)
    simp only [Memory.store]
    rw [Memory.lookup_cons]
    split_ifs <;> simp_all [Memory.lookup_cons] <;> grind

theorem Memory.write8_wf (m : Memory) (a : Word) (b : Byte) (h : m.wf) : (m.write8 a b).wf :=
  Memory.store_wf m a.toNat b a.isLt h

/-- A byte of a canonical memory after a write reads as the written byte at its address, and as before elsewhere. -/
theorem Memory.read8_write8 (m : Memory) (a c : Word) (b : Byte) (h : m.wf) :
    (m.write8 a b).read8 c = if c = a then b else m.read8 c := by
  simp only [Memory.read8, Memory.write8, Memory.lookup_store m a.toNat b c.toNat h, BitVec.toNat_inj]

@[simp] theorem Memory.writeAll_nil (m : Memory) : m.writeAll [] = m := rfl

@[simp] theorem Memory.writeAll_cons (m : Memory) (w : ByteStore) (ws : List ByteStore) :
    m.writeAll (w :: ws) = (m.write8 w.1 w.2).writeAll ws := rfl

theorem Memory.writeAll_wf (m : Memory) (ws : List ByteStore) (h : m.wf) : (m.writeAll ws).wf := by
  induction ws generalizing m with
  | nil => exact h
  | cons w ws ih => exact ih _ (Memory.write8_wf m w.1 w.2 h)

/-- A byte that no store of a list addresses reads as before. -/
theorem Memory.read8_writeAll_other (m : Memory) (ws : List ByteStore) (a : Word) (h : m.wf)
    (ha : ∀ w ∈ ws, w.1 ≠ a) : (m.writeAll ws).read8 a = m.read8 a := by
  induction ws generalizing m with
  | nil => rfl
  | cons w ws ih =>
    rw [Memory.writeAll_cons, ih _ (Memory.write8_wf m w.1 w.2 h) fun v hv => ha v (by simp [hv]),
      Memory.read8_write8 m w.1 a w.2 h, if_neg fun e => ha w (by simp) e.symm]

/-- Where the stores of a list that address a byte all store `b`, and one does, the byte reads `b`. -/
theorem Memory.read8_writeAll_of_mem (m : Memory) (ws : List ByteStore) (a : Word) (b : Byte) (h : m.wf)
    (hm : (a, b) ∈ ws) (hall : ∀ w ∈ ws, w.1 = a → w.2 = b) : (m.writeAll ws).read8 a = b := by
  induction ws generalizing m with
  | nil => simp at hm
  | cons w ws ih =>
    rw [Memory.writeAll_cons]
    by_cases hin : (a, b) ∈ ws
    · exact ih _ (Memory.write8_wf m w.1 w.2 h) hin fun v hv => hall v (by simp [hv])
    · have hw : w = (a, b) := by
        rcases List.mem_cons.1 hm with e | e
        · exact e.symm
        · exact absurd e hin
      have hno : ∀ v ∈ ws, v.1 ≠ a := by
        intro v hv e
        have hb : v.2 = b := hall v (by simp [hv]) e
        have hv' : v = (a, b) := Prod.ext e hb
        exact hin (hv' ▸ hv)
      rw [Memory.read8_writeAll_other _ ws a (Memory.write8_wf m w.1 w.2 h) hno, hw,
        Memory.read8_write8 m a a b h, if_pos rfl]

/-- The memory after reset is canonical. -/
theorem State.reset_mem_wf : State.reset.mem.wf := by decide

end Sys2Proof.Machine
end

