-- ==== Sys2Proof/Laws/Datapath.lean ====
section
/-! SUPPORT. What the shared operations of the datapath and the footprints can do, each said once. -/

namespace Sys2Proof.Machine

/-! ## Arithmetic -/

@[simp] theorem asr_zero (a : Int) : asr a 0 = a := by simp [asr]

@[simp] theorem shl_zero (a : Int) : shl a 0 = a := by simp [shl]

/-- A saturated value lies in 0 .. 255 (00_scope.md R12). -/
theorem clip8_range (v : Int) : 0 ≤ clip8 v ∧ clip8 v ≤ 255 := by
  unfold clip8
  split_ifs <;> omega

/-- A reference sample lies in 0 .. 255 (20_memory.md R73). -/
theorem sample_range (p : Snapshot) (m : Memory) (r c : Int) : 0 ≤ sample p m r c ∧ sample p m r c ≤ 255 := by
  have h := (m.read8 (srcAddr p r c)).isLt
  unfold sample
  omega

/-- A tap sum reads its window at the offsets 0 to 7 only. -/
theorem tapSum_congr (K : Kernel) (x y : Nat → Int) (h : ∀ k < 8, x k = y k) : tapSum K x = tapSum K y := by
  simp only [tapSum, h 0 (by omega), h 1 (by omega), h 2 (by omega), h 3 (by omega), h 4 (by omega), h 5 (by omega),
    h 6 (by omega), h 7 (by omega)]

/-! ## Block positions and byte stores -/

@[simp] theorem mem_blockPositions (p : Snapshot) (q : Nat × Nat) :
    q ∈ blockPositions p ↔ q.1 < p.h ∧ q.2 < p.w := by
  obtain ⟨r, c⟩ := q
  simp [blockPositions, List.mem_flatMap]

@[simp] theorem writeDst_eq (p : Snapshot) (r c : Nat) (v : Int) :
    writeDst p r c v = [(dstAddr p r c, BitVec.ofInt 8 v)] := by
  simp [writeDst, memWrite]

@[simp] theorem writeCbuf_eq (p : Snapshot) (r c : Nat) (v : Int) :
    writeCbuf p r c v =
      [(cbufAddr p r c, BitVec.ofInt 8 v), (cbufAddr p r c + 1, BitVec.ofInt 8 (v / 256))] := by
  simp [writeCbuf, memWrite, asr, List.range_succ]

/-- The loop over the block looks at block positions only. -/
theorem forBlock_congr (p : Snapshot) (f g : Nat → Nat → List ByteStore) (h : ∀ r < p.h, ∀ c < p.w, f r c = g r c) :
    forBlock p f = forBlock p g := by
  unfold forBlock
  exact List.flatMap_congr fun q hq => h _ ((mem_blockPositions p q).1 hq).1 _ ((mem_blockPositions p q).1 hq).2

theorem mem_forBlock (p : Snapshot) (f : Nat → Nat → List ByteStore) (w : ByteStore) :
    w ∈ forBlock p f ↔ ∃ r < p.h, ∃ c < p.w, w ∈ f r c := by
  simp only [forBlock, List.mem_flatMap, mem_blockPositions, Prod.exists]
  constructor
  · rintro ⟨r, c, ⟨hr, hc⟩, hw⟩
    exact ⟨r, hr, c, hc, hw⟩
  · rintro ⟨r, hr, c, hc, hw⟩
    exact ⟨r, c, ⟨hr, hc⟩, hw⟩

theorem mem_dstBytes (p : Snapshot) (a : Word) :
    a ∈ dstBytes p ↔ ∃ r < p.h, ∃ c < p.w, a = dstAddr p r c := by
  simp only [dstBytes, List.mem_map, mem_blockPositions, Prod.exists]
  constructor
  · rintro ⟨r, c, ⟨hr, hc⟩, rfl⟩
    exact ⟨r, hr, c, hc, rfl⟩
  · rintro ⟨r, hr, c, hc, rfl⟩
    exact ⟨r, c, ⟨hr, hc⟩, rfl⟩

theorem mem_cbufElements (p : Snapshot) (a : Word) :
    a ∈ cbufElements p ↔ ∃ r < p.h, ∃ c < p.w, a = cbufAddr p r c := by
  simp only [cbufElements, List.mem_map, mem_blockPositions, Prod.exists]
  constructor
  · rintro ⟨r, c, ⟨hr, hc⟩, rfl⟩
    exact ⟨r, hr, c, hc, rfl⟩
  · rintro ⟨r, hr, c, hc, rfl⟩
    exact ⟨r, c, ⟨hr, hc⟩, rfl⟩

theorem mem_cbufBytes (p : Snapshot) (a : Word) :
    a ∈ cbufBytes p ↔ ∃ r < p.h, ∃ c < p.w, a = cbufAddr p r c ∨ a = cbufAddr p r c + 1 := by
  simp only [cbufBytes, List.mem_flatMap, mem_cbufElements]
  constructor
  · rintro ⟨b, ⟨r, hr, c, hc, rfl⟩, ha⟩
    exact ⟨r, hr, c, hc, by simpa using ha⟩
  · rintro ⟨r, hr, c, hc, ha⟩
    exact ⟨_, ⟨r, hr, c, hc, rfl⟩, by simpa using ha⟩

/-- Every byte a command's rule stores lies in its write footprint (20_memory.md R77). -/
theorem passOf_footprint (i : Instr) (s : State) (w : ByteStore) (h : w ∈ passOf i s) :
    w.1 ∈ writeFootprint i s.snap := by
  have dst : ∀ f : Nat → Nat → Int, w ∈ forBlock s.snap (fun r c => writeDst s.snap r c (f r c)) →
      w.1 ∈ dstBytes s.snap := by
    intro f hw
    obtain ⟨r, hr, c, hc, hw⟩ := (mem_forBlock _ _ _).1 hw
    rw [writeDst_eq, List.mem_singleton] at hw
    exact (mem_dstBytes _ _).2 ⟨r, hr, c, hc, by rw [hw]⟩
  have cbuf : ∀ f : Nat → Nat → Int, w ∈ forBlock s.snap (fun r c => writeCbuf s.snap r c (f r c)) →
      w.1 ∈ cbufBytes s.snap := by
    intro f hw
    obtain ⟨r, hr, c, hc, hw⟩ := (mem_forBlock _ _ _).1 hw
    rw [writeCbuf_eq] at hw
    exact (mem_cbufBytes _ _).2 ⟨r, hr, c, hc, by
      rcases List.mem_pair.1 hw with rfl | rfl
      · exact .inl rfl
      · exact .inr rfl⟩
  cases i with
  | srCopy => simp only [passOf, srCopyPass] at h; exact dst _ h
  | srX => simp only [passOf, srXPass] at h; exact dst _ h
  | srY => simp only [passOf, srYPass] at h; exact dst _ h
  | srTwoD => simp only [passOf, srTwoDPass] at h; exact dst _ h
  | srAuto =>
    simp only [passOf, srAutoPass, srCopyPass, srXPass, srYPass, srTwoDPass] at h
    split at h <;> exact dst _ h
  | cmpCopy => simp only [passOf, cmpCopyPass] at h; exact cbuf _ h
  | cmpX => simp only [passOf, cmpXPass] at h; exact cbuf _ h
  | cmpY => simp only [passOf, cmpYPass] at h; exact cbuf _ h
  | cmpTwoD => simp only [passOf, cmpTwoDPass] at h; exact cbuf _ h
  | cmpAuto =>
    simp only [passOf, cmpAutoPass, cmpCopyPass, cmpXPass, cmpYPass, cmpTwoDPass] at h
    split at h <;> exact cbuf _ h
  | avgCopy => simp only [passOf, avgCopyPass] at h; exact dst _ h
  | avgX => simp only [passOf, avgXPass] at h; exact dst _ h
  | avgY => simp only [passOf, avgYPass] at h; exact dst _ h
  | avgTwoD => simp only [passOf, avgTwoDPass] at h; exact dst _ h
  | avgAuto =>
    simp only [passOf, avgAutoPass, avgCopyPass, avgXPass, avgYPass, avgTwoDPass] at h
    split at h <;> exact dst _ h
  | jntCopy => simp only [passOf, jntCopyPass] at h; exact dst _ h
  | jntX => simp only [passOf, jntXPass] at h; exact dst _ h
  | jntY => simp only [passOf, jntYPass] at h; exact dst _ h
  | jntTwoD => simp only [passOf, jntTwoDPass] at h; exact dst _ h
  | jntAuto =>
    simp only [passOf, jntAutoPass, jntCopyPass, jntXPass, jntYPass, jntTwoDPass] at h
    split at h <;> exact dst _ h

/-! ## The intermediate buffer -/

theorem mem_imCells (p : Snapshot) (m : Memory) (e : ImCell) :
    e ∈ imCells p m ↔
      e.row ∈ windowRows p ∧ e.col ∈ blockCols p ∧ e.val = BitVec.ofInt 16 (imValue p m e.row e.col) := by
  obtain ⟨i, c, v⟩ := e
  simp only [imCells, List.mem_flatMap, List.mem_map]
  constructor
  · rintro ⟨i', hi, c', hc, h⟩
    cases h
    exact ⟨hi, hc, rfl⟩
  · rintro ⟨hi, hc, hv⟩
    exact ⟨i, hi, c, hc, by simp_all⟩

/-- The window of a legal block fits the rows of IM (00_scope.md R9, 10_state.md R54). -/
theorem windowRows_length_le (p : Snapshot) (h : p.h ≤ Config.maxH) : (windowRows p).length ≤ Config.imRows := by
  simp only [windowRows, List.length_map, List.length_range, Config.ntaps, Config.imRows, Config.maxH] at h ⊢
  omega

theorem mem_windowRows (p : Snapshot) (i : Int) : i ∈ windowRows p ↔ -3 ≤ i ∧ i ≤ p.h + 3 := by
  simp only [windowRows, List.mem_map, List.mem_range, Config.tapOrigin, Config.ntaps]
  constructor
  · rintro ⟨k, hk, rfl⟩
    omega
  · rintro ⟨h1, h2⟩
    exact ⟨(i + 3).toNat, by omega, by omega⟩

theorem mem_windowCols (p : Snapshot) (i : Int) : i ∈ windowCols p ↔ -3 ≤ i ∧ i ≤ p.w + 3 := by
  simp only [windowCols, List.mem_map, List.mem_range, Config.tapOrigin, Config.ntaps]
  constructor
  · rintro ⟨k, hk, rfl⟩
    omega
  · rintro ⟨h1, h2⟩
    exact ⟨(i + 3).toNat, by omega, by omega⟩

theorem mem_blockRows (p : Snapshot) (r : Int) : r ∈ blockRows p ↔ 0 ≤ r ∧ r < p.h := by
  simp only [blockRows, List.mem_map, List.mem_range]
  constructor
  · rintro ⟨k, hk, rfl⟩
    omega
  · rintro ⟨h1, h2⟩
    exact ⟨r.toNat, by omega, by omega⟩

theorem mem_fullWindow (path : Path) (p : Snapshot) (r c : Int) :
    (r, c) ∈ fullWindow path p ↔ r ∈ fullRows path p ∧ c ∈ fullCols path p := by
  simp [fullWindow]

theorem mem_blockCols (p : Snapshot) (c : Int) : c ∈ blockCols p ↔ 0 ≤ c ∧ c < p.w := by
  simp only [blockCols, List.mem_map, List.mem_range]
  constructor
  · rintro ⟨k, hk, rfl⟩
    omega
  · rintro ⟨h1, h2⟩
    exact ⟨c.toNat, by omega, by omega⟩

/-- After the horizontal pass an entry of the window holds its value, stored as signed 16 bits (41_datapath.md R163). -/
theorem imAt_horizontalPass (s : State) (i c : Int) (hi : -3 ≤ i) (hi' : i ≤ s.snap.h + 3) (hc : 0 ≤ c)
    (hc' : c < s.snap.w) :
    imAt (horizontalPass s) i c = (BitVec.ofInt 16 (imValue s.snap s.mem i c)).toInt := by
  have key : ∃ e, (imCells s.snap s.mem).find? (fun e => e.row == i && e.col == c) = some e ∧
      e.val = BitVec.ofInt 16 (imValue s.snap s.mem i c) := by
    have hsome : ((imCells s.snap s.mem).find? (fun e => e.row == i && e.col == c)).isSome := by
      rw [List.find?_isSome]
      exact ⟨⟨i, c, BitVec.ofInt 16 (imValue s.snap s.mem i c)⟩,
        (mem_imCells _ _ _).2 ⟨(mem_windowRows _ _).2 ⟨hi, hi'⟩, (mem_blockCols _ _).2 ⟨hc, hc'⟩, rfl⟩, by simp⟩
    obtain ⟨e, he⟩ := Option.isSome_iff_exists.1 hsome
    have hp := List.find?_some he
    have hm := (mem_imCells _ _ _).1 (List.mem_of_find?_eq_some he)
    simp only [Bool.and_eq_true, beq_iff_eq] at hp
    exact ⟨e, he, by rw [hm.2.2, hp.1, hp.2]⟩
  obtain ⟨e, he, hv⟩ := key
  have hu : imAt (horizontalPass s) i c = e.val.toInt := by
    simp only [imAt, horizontalPass, he]
  rw [hu, hv]

end Sys2Proof.Machine
end

