-- ==== Sys2Proof/Laws/State.lean ====
section
/-! SUPPORT. One lemma per field and update of the state, true by definition. -/

namespace Sys2Proof.Machine

/-! ### overrun -/

@[simp] theorem overrun_phase (s : State) : (overrun s).phase = s.phase := rfl
@[simp] theorem overrun_done (s : State) : (overrun s).done = s.done := rfl
@[simp] theorem overrun_err (s : State) : (overrun s).err = s.err := rfl
@[simp] theorem overrun_ovr (s : State) : (overrun s).ovr = true := rfl
@[simp] theorem overrun_errCode (s : State) : (overrun s).errCode = s.errCode := rfl
@[simp] theorem overrun_cmd (s : State) : (overrun s).cmd = s.cmd := rfl
@[simp] theorem overrun_irqEn (s : State) : (overrun s).irqEn = s.irqEn := rfl
@[simp] theorem overrun_regs (s : State) : (overrun s).regs = s.regs := rfl
@[simp] theorem overrun_ksel (s : State) : (overrun s).ksel = s.ksel := rfl
@[simp] theorem overrun_snap (s : State) : (overrun s).snap = s.snap := rfl
@[simp] theorem overrun_im (s : State) : (overrun s).im = s.im := rfl
@[simp] theorem overrun_mem (s : State) : (overrun s).mem = s.mem := rfl
@[simp] theorem overrun_events (s : State) : (overrun s).events = s.events := rfl
@[simp] theorem overrun_posted (s : State) : (overrun s).posted = s.posted := rfl
@[simp] theorem overrun_tainted (s : State) : (overrun s).tainted = s.tainted := rfl
@[simp] theorem overrun_raced (s : State) : (overrun s).raced = s.raced := rfl
@[simp] theorem overrun_rdata (s : State) : (overrun s).rdata = s.rdata := rfl
@[simp] theorem overrun_draws (s : State) : (overrun s).draws = s.draws := rfl
@[simp] theorem overrun_busHoles (s : State) : (overrun s).busHoles = s.busHoles := rfl
@[simp] theorem overrun_deviceRegions (s : State) : (overrun s).deviceRegions = s.deviceRegions := rfl
@[simp] theorem overrun_stale (s : State) : (overrun s).stale = s.stale := rfl

/-! ### clearForAcceptance -/

@[simp] theorem clearForAcceptance_phase (s : State) : (clearForAcceptance s).phase = s.phase := rfl
@[simp] theorem clearForAcceptance_done (s : State) : (clearForAcceptance s).done = false := rfl
@[simp] theorem clearForAcceptance_err (s : State) : (clearForAcceptance s).err = false := rfl
@[simp] theorem clearForAcceptance_ovr (s : State) : (clearForAcceptance s).ovr = s.ovr := rfl
@[simp] theorem clearForAcceptance_errCode (s : State) : (clearForAcceptance s).errCode = 0 := rfl
@[simp] theorem clearForAcceptance_cmd (s : State) : (clearForAcceptance s).cmd = s.cmd := rfl
@[simp] theorem clearForAcceptance_irqEn (s : State) : (clearForAcceptance s).irqEn = s.irqEn := rfl
@[simp] theorem clearForAcceptance_regs (s : State) : (clearForAcceptance s).regs = s.regs := rfl
@[simp] theorem clearForAcceptance_ksel (s : State) : (clearForAcceptance s).ksel = s.ksel := rfl
@[simp] theorem clearForAcceptance_snap (s : State) : (clearForAcceptance s).snap = s.snap := rfl
@[simp] theorem clearForAcceptance_im (s : State) : (clearForAcceptance s).im = s.im := rfl
@[simp] theorem clearForAcceptance_mem (s : State) : (clearForAcceptance s).mem = s.mem := rfl
@[simp] theorem clearForAcceptance_events (s : State) : (clearForAcceptance s).events = s.events := rfl
@[simp] theorem clearForAcceptance_posted (s : State) : (clearForAcceptance s).posted = s.posted := rfl
@[simp] theorem clearForAcceptance_tainted (s : State) : (clearForAcceptance s).tainted = s.tainted := rfl
@[simp] theorem clearForAcceptance_raced (s : State) : (clearForAcceptance s).raced = s.raced := rfl
@[simp] theorem clearForAcceptance_rdata (s : State) : (clearForAcceptance s).rdata = s.rdata := rfl
@[simp] theorem clearForAcceptance_draws (s : State) : (clearForAcceptance s).draws = s.draws := rfl
@[simp] theorem clearForAcceptance_busHoles (s : State) : (clearForAcceptance s).busHoles = s.busHoles := rfl
@[simp] theorem clearForAcceptance_deviceRegions (s : State) : (clearForAcceptance s).deviceRegions = s.deviceRegions := rfl
@[simp] theorem clearForAcceptance_stale (s : State) : (clearForAcceptance s).stale = s.stale := rfl

/-! ### accept -/

@[simp] theorem accept_phase (v : Word) (s : State) : (accept v s).phase = s.phase := rfl
@[simp] theorem accept_done (v : Word) (s : State) : (accept v s).done = false := rfl
@[simp] theorem accept_err (v : Word) (s : State) : (accept v s).err = false := rfl
@[simp] theorem accept_ovr (v : Word) (s : State) : (accept v s).ovr = s.ovr := rfl
@[simp] theorem accept_errCode (v : Word) (s : State) : (accept v s).errCode = 0 := rfl
@[simp] theorem accept_cmd (v : Word) (s : State) : (accept v s).cmd = v := rfl
@[simp] theorem accept_irqEn (v : Word) (s : State) : (accept v s).irqEn = s.irqEn := rfl
@[simp] theorem accept_regs (v : Word) (s : State) : (accept v s).regs = s.regs := rfl
@[simp] theorem accept_ksel (v : Word) (s : State) : (accept v s).ksel = s.ksel := rfl
@[simp] theorem accept_snap (v : Word) (s : State) : (accept v s).snap = s.snapshotWith v := rfl
@[simp] theorem accept_im (v : Word) (s : State) : (accept v s).im = s.im := rfl
@[simp] theorem accept_mem (v : Word) (s : State) : (accept v s).mem = s.mem := rfl
@[simp] theorem accept_events (v : Word) (s : State) : (accept v s).events = s.events := rfl
@[simp] theorem accept_posted (v : Word) (s : State) : (accept v s).posted = s.posted := rfl
@[simp] theorem accept_tainted (v : Word) (s : State) : (accept v s).tainted = s.tainted := rfl
@[simp] theorem accept_raced (v : Word) (s : State) : (accept v s).raced = s.raced := rfl
@[simp] theorem accept_rdata (v : Word) (s : State) : (accept v s).rdata = s.rdata := rfl
@[simp] theorem accept_draws (v : Word) (s : State) : (accept v s).draws = s.draws := rfl
@[simp] theorem accept_busHoles (v : Word) (s : State) : (accept v s).busHoles = s.busHoles := rfl
@[simp] theorem accept_deviceRegions (v : Word) (s : State) : (accept v s).deviceRegions = s.deviceRegions := rfl
@[simp] theorem accept_stale (v : Word) (s : State) : (accept v s).stale = s.stale := rfl

/-! ### raiseError -/

@[simp] theorem raiseError_phase (e : ErrCode) (s : State) : (raiseError e s).phase = s.phase := rfl
@[simp] theorem raiseError_done (e : ErrCode) (s : State) : (raiseError e s).done = s.done := rfl
@[simp] theorem raiseError_err (e : ErrCode) (s : State) : (raiseError e s).err = true := rfl
@[simp] theorem raiseError_ovr (e : ErrCode) (s : State) : (raiseError e s).ovr = s.ovr := rfl
@[simp] theorem raiseError_errCode (e : ErrCode) (s : State) : (raiseError e s).errCode = e.code := rfl
@[simp] theorem raiseError_cmd (e : ErrCode) (s : State) : (raiseError e s).cmd = s.cmd := rfl
@[simp] theorem raiseError_irqEn (e : ErrCode) (s : State) : (raiseError e s).irqEn = s.irqEn := rfl
@[simp] theorem raiseError_regs (e : ErrCode) (s : State) : (raiseError e s).regs = s.regs := rfl
@[simp] theorem raiseError_ksel (e : ErrCode) (s : State) : (raiseError e s).ksel = s.ksel := rfl
@[simp] theorem raiseError_snap (e : ErrCode) (s : State) : (raiseError e s).snap = s.snap := rfl
@[simp] theorem raiseError_im (e : ErrCode) (s : State) : (raiseError e s).im = s.im := rfl
@[simp] theorem raiseError_mem (e : ErrCode) (s : State) : (raiseError e s).mem = s.mem := rfl
@[simp] theorem raiseError_events (e : ErrCode) (s : State) : (raiseError e s).events = s.events := rfl
@[simp] theorem raiseError_posted (e : ErrCode) (s : State) : (raiseError e s).posted = s.posted := rfl
@[simp] theorem raiseError_tainted (e : ErrCode) (s : State) : (raiseError e s).tainted = s.tainted := rfl
@[simp] theorem raiseError_raced (e : ErrCode) (s : State) : (raiseError e s).raced = s.raced := rfl
@[simp] theorem raiseError_rdata (e : ErrCode) (s : State) : (raiseError e s).rdata = s.rdata := rfl
@[simp] theorem raiseError_draws (e : ErrCode) (s : State) : (raiseError e s).draws = s.draws := rfl
@[simp] theorem raiseError_busHoles (e : ErrCode) (s : State) : (raiseError e s).busHoles = s.busHoles := rfl
@[simp] theorem raiseError_deviceRegions (e : ErrCode) (s : State) : (raiseError e s).deviceRegions = s.deviceRegions := rfl
@[simp] theorem raiseError_stale (e : ErrCode) (s : State) : (raiseError e s).stale = s.stale := rfl

/-! ### configError -/

@[simp] theorem configError_phase (e : ErrCode) (s : State) : (configError e s).phase = s.phase := rfl
@[simp] theorem configError_done (e : ErrCode) (s : State) : (configError e s).done = s.done := rfl
@[simp] theorem configError_err (e : ErrCode) (s : State) : (configError e s).err = true := rfl
@[simp] theorem configError_ovr (e : ErrCode) (s : State) : (configError e s).ovr = s.ovr := rfl
@[simp] theorem configError_errCode (e : ErrCode) (s : State) : (configError e s).errCode = e.code := rfl
@[simp] theorem configError_cmd (e : ErrCode) (s : State) : (configError e s).cmd = s.cmd := rfl
@[simp] theorem configError_irqEn (e : ErrCode) (s : State) : (configError e s).irqEn = s.irqEn := rfl
@[simp] theorem configError_regs (e : ErrCode) (s : State) : (configError e s).regs = s.regs := rfl
@[simp] theorem configError_ksel (e : ErrCode) (s : State) : (configError e s).ksel = s.ksel := rfl
@[simp] theorem configError_snap (e : ErrCode) (s : State) : (configError e s).snap = s.snap := rfl
@[simp] theorem configError_im (e : ErrCode) (s : State) : (configError e s).im = s.im := rfl
@[simp] theorem configError_mem (e : ErrCode) (s : State) : (configError e s).mem = s.mem := rfl
@[simp] theorem configError_events (e : ErrCode) (s : State) : (configError e s).events = s.events := rfl
@[simp] theorem configError_posted (e : ErrCode) (s : State) : (configError e s).posted = s.posted := rfl
@[simp] theorem configError_tainted (e : ErrCode) (s : State) : (configError e s).tainted = s.tainted := rfl
@[simp] theorem configError_raced (e : ErrCode) (s : State) : (configError e s).raced = s.raced := rfl
@[simp] theorem configError_rdata (e : ErrCode) (s : State) : (configError e s).rdata = s.rdata := rfl
@[simp] theorem configError_draws (e : ErrCode) (s : State) : (configError e s).draws = s.draws := rfl
@[simp] theorem configError_busHoles (e : ErrCode) (s : State) : (configError e s).busHoles = s.busHoles := rfl
@[simp] theorem configError_deviceRegions (e : ErrCode) (s : State) : (configError e s).deviceRegions = s.deviceRegions := rfl
@[simp] theorem configError_stale (e : ErrCode) (s : State) : (configError e s).stale = s.stale := rfl

/-! ### start -/

@[simp] theorem start_phase (i : Instr) (s : State) : (start i s).phase = .busy := rfl
@[simp] theorem start_done (i : Instr) (s : State) : (start i s).done = s.done := rfl
@[simp] theorem start_err (i : Instr) (s : State) : (start i s).err = s.err := rfl
@[simp] theorem start_ovr (i : Instr) (s : State) : (start i s).ovr = s.ovr := rfl
@[simp] theorem start_errCode (i : Instr) (s : State) : (start i s).errCode = s.errCode := rfl
@[simp] theorem start_cmd (i : Instr) (s : State) : (start i s).cmd = s.cmd := rfl
@[simp] theorem start_irqEn (i : Instr) (s : State) : (start i s).irqEn = s.irqEn := rfl
@[simp] theorem start_regs (i : Instr) (s : State) : (start i s).regs = s.regs := rfl
@[simp] theorem start_ksel (i : Instr) (s : State) : (start i s).ksel = s.ksel := rfl
@[simp] theorem start_snap (i : Instr) (s : State) : (start i s).snap = s.snap := rfl
@[simp] theorem start_im (i : Instr) (s : State) : (start i s).im = s.im := rfl
@[simp] theorem start_mem (i : Instr) (s : State) : (start i s).mem = s.mem := rfl
@[simp] theorem start_events (i : Instr) (s : State) : (start i s).events = s.events := rfl
@[simp] theorem start_posted (i : Instr) (s : State) : (start i s).posted = s.posted := rfl
@[simp] theorem start_tainted (i : Instr) (s : State) : (start i s).tainted = (overlaps i s.snap || awaitsPosted s.posted i s.snap || touchesDevice s.deviceRegions i s.snap) := rfl
@[simp] theorem start_raced (i : Instr) (s : State) : (start i s).raced = [] := rfl
@[simp] theorem start_rdata (i : Instr) (s : State) : (start i s).rdata = s.rdata := rfl
@[simp] theorem start_draws (i : Instr) (s : State) : (start i s).draws = s.draws := rfl
@[simp] theorem start_busHoles (i : Instr) (s : State) : (start i s).busHoles = s.busHoles := rfl
@[simp] theorem start_deviceRegions (i : Instr) (s : State) : (start i s).deviceRegions = s.deviceRegions := rfl
@[simp] theorem start_stale (i : Instr) (s : State) : (start i s).stale = s.stale := rfl

/-! ### retire -/

@[simp] theorem retire_phase (m : Memory) (as : List Word) (s : State) : (retire m as s).phase = .idle := rfl
@[simp] theorem retire_done (m : Memory) (as : List Word) (s : State) : (retire m as s).done = s.done := rfl
@[simp] theorem retire_err (m : Memory) (as : List Word) (s : State) : (retire m as s).err = s.err := rfl
@[simp] theorem retire_ovr (m : Memory) (as : List Word) (s : State) : (retire m as s).ovr = s.ovr := rfl
@[simp] theorem retire_errCode (m : Memory) (as : List Word) (s : State) : (retire m as s).errCode = s.errCode := rfl
@[simp] theorem retire_cmd (m : Memory) (as : List Word) (s : State) : (retire m as s).cmd = s.cmd := rfl
@[simp] theorem retire_irqEn (m : Memory) (as : List Word) (s : State) : (retire m as s).irqEn = s.irqEn := rfl
@[simp] theorem retire_regs (m : Memory) (as : List Word) (s : State) : (retire m as s).regs = s.regs := rfl
@[simp] theorem retire_ksel (m : Memory) (as : List Word) (s : State) : (retire m as s).ksel = s.ksel := rfl
@[simp] theorem retire_snap (m : Memory) (as : List Word) (s : State) : (retire m as s).snap = s.snap := rfl
@[simp] theorem retire_im (m : Memory) (as : List Word) (s : State) : (retire m as s).im = [] := rfl
@[simp] theorem retire_mem (m : Memory) (as : List Word) (s : State) : (retire m as s).mem = m := rfl
@[simp] theorem retire_events (m : Memory) (as : List Word) (s : State) : (retire m as s).events = s.events := rfl
@[simp] theorem retire_posted (m : Memory) (as : List Word) (s : State) : (retire m as s).posted = s.posted := rfl
@[simp] theorem retire_tainted (m : Memory) (as : List Word) (s : State) : (retire m as s).tainted = false := rfl
@[simp] theorem retire_raced (m : Memory) (as : List Word) (s : State) : (retire m as s).raced = [] := rfl
@[simp] theorem retire_rdata (m : Memory) (as : List Word) (s : State) : (retire m as s).rdata = s.rdata := rfl
@[simp] theorem retire_draws (m : Memory) (as : List Word) (s : State) : (retire m as s).draws = s.draws + 1 := rfl
@[simp] theorem retire_busHoles (m : Memory) (as : List Word) (s : State) : (retire m as s).busHoles = s.busHoles := rfl
@[simp] theorem retire_deviceRegions (m : Memory) (as : List Word) (s : State) : (retire m as s).deviceRegions = s.deviceRegions := rfl
@[simp] theorem retire_stale (m : Memory) (as : List Word) (s : State) : (retire m as s).stale = s.stale ++ as := rfl

/-! ### busError -/

@[simp] theorem busError_phase (i : Instr) (s : State) : (busError i s).phase = .idle := rfl
@[simp] theorem busError_done (i : Instr) (s : State) : (busError i s).done = s.done := rfl
@[simp] theorem busError_err (i : Instr) (s : State) : (busError i s).err = true := rfl
@[simp] theorem busError_ovr (i : Instr) (s : State) : (busError i s).ovr = s.ovr := rfl
@[simp] theorem busError_errCode (i : Instr) (s : State) : (busError i s).errCode = 8 := rfl
@[simp] theorem busError_cmd (i : Instr) (s : State) : (busError i s).cmd = s.cmd := rfl
@[simp] theorem busError_irqEn (i : Instr) (s : State) : (busError i s).irqEn = s.irqEn := rfl
@[simp] theorem busError_regs (i : Instr) (s : State) : (busError i s).regs = s.regs := rfl
@[simp] theorem busError_ksel (i : Instr) (s : State) : (busError i s).ksel = s.ksel := rfl
@[simp] theorem busError_snap (i : Instr) (s : State) : (busError i s).snap = s.snap := rfl
@[simp] theorem busError_im (i : Instr) (s : State) : (busError i s).im = [] := rfl
@[simp] theorem busError_mem (i : Instr) (s : State) : (busError i s).mem = s.mem.writeAll (freeStores s.draws (writeFootprint i s.snap)) := rfl
@[simp] theorem busError_events (i : Instr) (s : State) : (busError i s).events = s.events := rfl
@[simp] theorem busError_posted (i : Instr) (s : State) : (busError i s).posted = s.posted := rfl
@[simp] theorem busError_tainted (i : Instr) (s : State) : (busError i s).tainted = false := rfl
@[simp] theorem busError_raced (i : Instr) (s : State) : (busError i s).raced = [] := rfl
@[simp] theorem busError_rdata (i : Instr) (s : State) : (busError i s).rdata = s.rdata := rfl
@[simp] theorem busError_draws (i : Instr) (s : State) : (busError i s).draws = s.draws + 1 := rfl
@[simp] theorem busError_busHoles (i : Instr) (s : State) : (busError i s).busHoles = s.busHoles := rfl
@[simp] theorem busError_deviceRegions (i : Instr) (s : State) : (busError i s).deviceRegions = s.deviceRegions := rfl
@[simp] theorem busError_stale (i : Instr) (s : State) : (busError i s).stale = s.stale ++ writeFootprint i s.snap := rfl

/-! ### complete -/

@[simp] theorem complete_phase (i : Instr) (ws : List ByteStore) (s : State) : (complete i ws s).phase = .idle := rfl
@[simp] theorem complete_done (i : Instr) (ws : List ByteStore) (s : State) : (complete i ws s).done = true := rfl
@[simp] theorem complete_err (i : Instr) (ws : List ByteStore) (s : State) : (complete i ws s).err = s.err := rfl
@[simp] theorem complete_ovr (i : Instr) (ws : List ByteStore) (s : State) : (complete i ws s).ovr = s.ovr := rfl
@[simp] theorem complete_errCode (i : Instr) (ws : List ByteStore) (s : State) : (complete i ws s).errCode = s.errCode := rfl
@[simp] theorem complete_cmd (i : Instr) (ws : List ByteStore) (s : State) : (complete i ws s).cmd = s.cmd := rfl
@[simp] theorem complete_irqEn (i : Instr) (ws : List ByteStore) (s : State) : (complete i ws s).irqEn = s.irqEn := rfl
@[simp] theorem complete_regs (i : Instr) (ws : List ByteStore) (s : State) : (complete i ws s).regs = s.regs := rfl
@[simp] theorem complete_ksel (i : Instr) (ws : List ByteStore) (s : State) : (complete i ws s).ksel = s.ksel := rfl
@[simp] theorem complete_snap (i : Instr) (ws : List ByteStore) (s : State) : (complete i ws s).snap = s.snap := rfl
@[simp] theorem complete_im (i : Instr) (ws : List ByteStore) (s : State) : (complete i ws s).im = [] := rfl
@[simp] theorem complete_mem (i : Instr) (ws : List ByteStore) (s : State) : (complete i ws s).mem = resultMemory i ws s := rfl
@[simp] theorem complete_events (i : Instr) (ws : List ByteStore) (s : State) : (complete i ws s).events = s.events := rfl
@[simp] theorem complete_posted (i : Instr) (ws : List ByteStore) (s : State) : (complete i ws s).posted = s.posted := rfl
@[simp] theorem complete_tainted (i : Instr) (ws : List ByteStore) (s : State) : (complete i ws s).tainted = false := rfl
@[simp] theorem complete_raced (i : Instr) (ws : List ByteStore) (s : State) : (complete i ws s).raced = [] := rfl
@[simp] theorem complete_rdata (i : Instr) (ws : List ByteStore) (s : State) : (complete i ws s).rdata = s.rdata := rfl
@[simp] theorem complete_draws (i : Instr) (ws : List ByteStore) (s : State) : (complete i ws s).draws = s.draws + 1 := rfl
@[simp] theorem complete_busHoles (i : Instr) (ws : List ByteStore) (s : State) : (complete i ws s).busHoles = s.busHoles := rfl
@[simp] theorem complete_deviceRegions (i : Instr) (ws : List ByteStore) (s : State) : (complete i ws s).deviceRegions = s.deviceRegions := rfl
@[simp] theorem complete_stale (i : Instr) (ws : List ByteStore) (s : State) : (complete i ws s).stale = s.stale ++ writeFootprint i s.snap := rfl

/-! ### horizontalPass -/

@[simp] theorem horizontalPass_phase (s : State) : (horizontalPass s).phase = s.phase := rfl
@[simp] theorem horizontalPass_done (s : State) : (horizontalPass s).done = s.done := rfl
@[simp] theorem horizontalPass_err (s : State) : (horizontalPass s).err = s.err := rfl
@[simp] theorem horizontalPass_ovr (s : State) : (horizontalPass s).ovr = s.ovr := rfl
@[simp] theorem horizontalPass_errCode (s : State) : (horizontalPass s).errCode = s.errCode := rfl
@[simp] theorem horizontalPass_cmd (s : State) : (horizontalPass s).cmd = s.cmd := rfl
@[simp] theorem horizontalPass_irqEn (s : State) : (horizontalPass s).irqEn = s.irqEn := rfl
@[simp] theorem horizontalPass_regs (s : State) : (horizontalPass s).regs = s.regs := rfl
@[simp] theorem horizontalPass_ksel (s : State) : (horizontalPass s).ksel = s.ksel := rfl
@[simp] theorem horizontalPass_snap (s : State) : (horizontalPass s).snap = s.snap := rfl
@[simp] theorem horizontalPass_im (s : State) : (horizontalPass s).im = imCells s.snap s.mem := rfl
@[simp] theorem horizontalPass_mem (s : State) : (horizontalPass s).mem = s.mem := rfl
@[simp] theorem horizontalPass_events (s : State) : (horizontalPass s).events = s.events := rfl
@[simp] theorem horizontalPass_posted (s : State) : (horizontalPass s).posted = s.posted := rfl
@[simp] theorem horizontalPass_tainted (s : State) : (horizontalPass s).tainted = s.tainted := rfl
@[simp] theorem horizontalPass_raced (s : State) : (horizontalPass s).raced = s.raced := rfl
@[simp] theorem horizontalPass_rdata (s : State) : (horizontalPass s).rdata = s.rdata := rfl
@[simp] theorem horizontalPass_draws (s : State) : (horizontalPass s).draws = s.draws := rfl
@[simp] theorem horizontalPass_busHoles (s : State) : (horizontalPass s).busHoles = s.busHoles := rfl
@[simp] theorem horizontalPass_deviceRegions (s : State) : (horizontalPass s).deviceRegions = s.deviceRegions := rfl
@[simp] theorem horizontalPass_stale (s : State) : (horizontalPass s).stale = s.stale := rfl

/-! ### writeStatus -/

@[simp] theorem writeStatus_phase (v : Word) (s : State) : (writeStatus v s).phase = s.phase := rfl
@[simp] theorem writeStatus_done (v : Word) (s : State) : (writeStatus v s).done = (s.done && !v.getLsbD 1) := rfl
@[simp] theorem writeStatus_err (v : Word) (s : State) : (writeStatus v s).err = (s.err && !v.getLsbD 2) := rfl
@[simp] theorem writeStatus_ovr (v : Word) (s : State) : (writeStatus v s).ovr = (s.ovr && !v.getLsbD 3) := rfl
@[simp] theorem writeStatus_errCode (v : Word) (s : State) : (writeStatus v s).errCode = (if v.getLsbD 2 then 0 else s.errCode) := rfl
@[simp] theorem writeStatus_cmd (v : Word) (s : State) : (writeStatus v s).cmd = s.cmd := rfl
@[simp] theorem writeStatus_irqEn (v : Word) (s : State) : (writeStatus v s).irqEn = s.irqEn := rfl
@[simp] theorem writeStatus_regs (v : Word) (s : State) : (writeStatus v s).regs = s.regs := rfl
@[simp] theorem writeStatus_ksel (v : Word) (s : State) : (writeStatus v s).ksel = s.ksel := rfl
@[simp] theorem writeStatus_snap (v : Word) (s : State) : (writeStatus v s).snap = s.snap := rfl
@[simp] theorem writeStatus_im (v : Word) (s : State) : (writeStatus v s).im = s.im := rfl
@[simp] theorem writeStatus_mem (v : Word) (s : State) : (writeStatus v s).mem = s.mem := rfl
@[simp] theorem writeStatus_events (v : Word) (s : State) : (writeStatus v s).events = s.events := rfl
@[simp] theorem writeStatus_posted (v : Word) (s : State) : (writeStatus v s).posted = s.posted := rfl
@[simp] theorem writeStatus_tainted (v : Word) (s : State) : (writeStatus v s).tainted = s.tainted := rfl
@[simp] theorem writeStatus_raced (v : Word) (s : State) : (writeStatus v s).raced = s.raced := rfl
@[simp] theorem writeStatus_rdata (v : Word) (s : State) : (writeStatus v s).rdata = s.rdata := rfl
@[simp] theorem writeStatus_draws (v : Word) (s : State) : (writeStatus v s).draws = s.draws := rfl
@[simp] theorem writeStatus_busHoles (v : Word) (s : State) : (writeStatus v s).busHoles = s.busHoles := rfl
@[simp] theorem writeStatus_deviceRegions (v : Word) (s : State) : (writeStatus v s).deviceRegions = s.deviceRegions := rfl
@[simp] theorem writeStatus_stale (v : Word) (s : State) : (writeStatus v s).stale = s.stale := rfl

@[simp] theorem snapshotWith_cmd (s : State) (v : Word) : (s.snapshotWith v).cmd = v := rfl
@[simp] theorem snapshotWith_regs (s : State) (v : Word) : (s.snapshotWith v).regs = s.regs := rfl

/-! ### noteStores -/

@[simp] theorem noteStores_phase (as : List Word) (s : State) : (noteStores as s).phase = s.phase := rfl
@[simp] theorem noteStores_done (as : List Word) (s : State) : (noteStores as s).done = s.done := rfl
@[simp] theorem noteStores_err (as : List Word) (s : State) : (noteStores as s).err = s.err := rfl
@[simp] theorem noteStores_ovr (as : List Word) (s : State) : (noteStores as s).ovr = s.ovr := rfl
@[simp] theorem noteStores_errCode (as : List Word) (s : State) : (noteStores as s).errCode = s.errCode := rfl
@[simp] theorem noteStores_cmd (as : List Word) (s : State) : (noteStores as s).cmd = s.cmd := rfl
@[simp] theorem noteStores_irqEn (as : List Word) (s : State) : (noteStores as s).irqEn = s.irqEn := rfl
@[simp] theorem noteStores_regs (as : List Word) (s : State) : (noteStores as s).regs = s.regs := rfl
@[simp] theorem noteStores_ksel (as : List Word) (s : State) : (noteStores as s).ksel = s.ksel := rfl
@[simp] theorem noteStores_snap (as : List Word) (s : State) : (noteStores as s).snap = s.snap := rfl
@[simp] theorem noteStores_im (as : List Word) (s : State) : (noteStores as s).im = s.im := rfl
@[simp] theorem noteStores_mem (as : List Word) (s : State) : (noteStores as s).mem = s.mem := rfl
@[simp] theorem noteStores_events (as : List Word) (s : State) : (noteStores as s).events = s.events := rfl
@[simp] theorem noteStores_posted (as : List Word) (s : State) : (noteStores as s).posted = s.posted := rfl
@[simp] theorem noteStores_stale (as : List Word) (s : State) : (noteStores as s).stale = s.stale := rfl
@[simp] theorem noteStores_rdata (as : List Word) (s : State) : (noteStores as s).rdata = s.rdata := rfl
@[simp] theorem noteStores_draws (as : List Word) (s : State) : (noteStores as s).draws = s.draws := rfl
@[simp] theorem noteStores_busHoles (as : List Word) (s : State) : (noteStores as s).busHoles = s.busHoles := rfl
@[simp] theorem noteStores_deviceRegions (as : List Word) (s : State) : (noteStores as s).deviceRegions = s.deviceRegions := rfl
@[simp] theorem noteStores_tainted (as : List Word) (s : State) :
    (noteStores as s).tainted = (s.tainted || as.any (inFlightReads s)) := rfl
@[simp] theorem noteStores_raced (as : List Word) (s : State) :
    (noteStores as s).raced = as.filter (inFlightWrites s) ++ s.raced := rfl

/-! ### agentStore -/

@[simp] theorem agentStore_phase (s : State) (w : ByteStore) : (agentStore s w).phase = s.phase := rfl
@[simp] theorem agentStore_done (s : State) (w : ByteStore) : (agentStore s w).done = s.done := rfl
@[simp] theorem agentStore_err (s : State) (w : ByteStore) : (agentStore s w).err = s.err := rfl
@[simp] theorem agentStore_ovr (s : State) (w : ByteStore) : (agentStore s w).ovr = s.ovr := rfl
@[simp] theorem agentStore_errCode (s : State) (w : ByteStore) : (agentStore s w).errCode = s.errCode := rfl
@[simp] theorem agentStore_cmd (s : State) (w : ByteStore) : (agentStore s w).cmd = s.cmd := rfl
@[simp] theorem agentStore_irqEn (s : State) (w : ByteStore) : (agentStore s w).irqEn = s.irqEn := rfl
@[simp] theorem agentStore_regs (s : State) (w : ByteStore) : (agentStore s w).regs = s.regs := rfl
@[simp] theorem agentStore_ksel (s : State) (w : ByteStore) : (agentStore s w).ksel = s.ksel := rfl
@[simp] theorem agentStore_snap (s : State) (w : ByteStore) : (agentStore s w).snap = s.snap := rfl
@[simp] theorem agentStore_im (s : State) (w : ByteStore) : (agentStore s w).im = s.im := rfl
@[simp] theorem agentStore_mem (s : State) (w : ByteStore) : (agentStore s w).mem = s.mem.write8 w.1 w.2 := rfl
@[simp] theorem agentStore_events (s : State) (w : ByteStore) : (agentStore s w).events = s.events := rfl
@[simp] theorem agentStore_posted (s : State) (w : ByteStore) : (agentStore s w).posted = s.posted := rfl
@[simp] theorem agentStore_tainted (s : State) (w : ByteStore) : (agentStore s w).tainted = (s.tainted || inFlightReads s w.1) := by
  simp [agentStore, noteStores]
@[simp] theorem agentStore_raced (s : State) (w : ByteStore) :
    (agentStore s w).raced = if inFlightWrites s w.1 then w.1 :: s.raced else s.raced := by
  cases h : inFlightWrites s w.1 <;> simp [agentStore, noteStores, h]
@[simp] theorem agentStore_rdata (s : State) (w : ByteStore) : (agentStore s w).rdata = s.rdata := rfl
@[simp] theorem agentStore_draws (s : State) (w : ByteStore) : (agentStore s w).draws = s.draws := rfl
@[simp] theorem agentStore_busHoles (s : State) (w : ByteStore) : (agentStore s w).busHoles = s.busHoles := rfl
@[simp] theorem agentStore_deviceRegions (s : State) (w : ByteStore) : (agentStore s w).deviceRegions = s.deviceRegions := rfl
@[simp] theorem agentStore_stale (s : State) (w : ByteStore) : (agentStore s w).stale = s.stale := rfl

/-! ### refresh -/

@[simp] theorem refresh_phase (as : List Word) (s : State) : (refresh as s).phase = s.phase := rfl
@[simp] theorem refresh_done (as : List Word) (s : State) : (refresh as s).done = s.done := rfl
@[simp] theorem refresh_err (as : List Word) (s : State) : (refresh as s).err = s.err := rfl
@[simp] theorem refresh_ovr (as : List Word) (s : State) : (refresh as s).ovr = s.ovr := rfl
@[simp] theorem refresh_errCode (as : List Word) (s : State) : (refresh as s).errCode = s.errCode := rfl
@[simp] theorem refresh_cmd (as : List Word) (s : State) : (refresh as s).cmd = s.cmd := rfl
@[simp] theorem refresh_irqEn (as : List Word) (s : State) : (refresh as s).irqEn = s.irqEn := rfl
@[simp] theorem refresh_regs (as : List Word) (s : State) : (refresh as s).regs = s.regs := rfl
@[simp] theorem refresh_ksel (as : List Word) (s : State) : (refresh as s).ksel = s.ksel := rfl
@[simp] theorem refresh_snap (as : List Word) (s : State) : (refresh as s).snap = s.snap := rfl
@[simp] theorem refresh_im (as : List Word) (s : State) : (refresh as s).im = s.im := rfl
@[simp] theorem refresh_mem (as : List Word) (s : State) : (refresh as s).mem = s.mem := rfl
@[simp] theorem refresh_events (as : List Word) (s : State) : (refresh as s).events = s.events := rfl
@[simp] theorem refresh_posted (as : List Word) (s : State) : (refresh as s).posted = s.posted := rfl
@[simp] theorem refresh_tainted (as : List Word) (s : State) : (refresh as s).tainted = s.tainted := rfl
@[simp] theorem refresh_raced (as : List Word) (s : State) : (refresh as s).raced = s.raced := rfl
@[simp] theorem refresh_rdata (as : List Word) (s : State) : (refresh as s).rdata = s.rdata := rfl
@[simp] theorem refresh_draws (as : List Word) (s : State) : (refresh as s).draws = s.draws := rfl
@[simp] theorem refresh_busHoles (as : List Word) (s : State) : (refresh as s).busHoles = s.busHoles := rfl
@[simp] theorem refresh_deviceRegions (as : List Word) (s : State) : (refresh as s).deviceRegions = s.deviceRegions := rfl
@[simp] theorem refresh_stale (as : List Word) (s : State) : (refresh as s).stale = s.stale.filter fun a => !as.contains a := rfl

end Sys2Proof.Machine
end

