-- ==== Sys2Proof/Laws/Ops.lean ====
section
/-! SUPPORT. What the operations of the command lifecycle can do, each said once. -/

namespace Sys2Proof.Machine

/-- Every meaning is the lifecycle of its own command with its own rule (30_encoding.md R110, R111). -/
theorem exec_eq_command (i : Instr) (s : State) : exec i s = .next (command i (passOf i) s) := by
  cases i <;> rfl

/-- All that an issued command can do (30_encoding.md R110). -/
theorem command_cases (i : Instr) (pass : State → List ByteStore) (s : State) :
    (s.phase = .busy ∧ command i pass s = overrun s) ∨
    (∃ e, s.phase = .idle ∧ checkInstr i (s.snapshotWith (encode i)) = some e ∧
      command i pass s = configError e (accept (encode i) s)) ∨
    (s.phase = .idle ∧ checkInstr i (s.snapshotWith (encode i)) = none ∧ engineNext s.events = true ∧
      command i pass s = finish i pass { start i (accept (encode i) s) with events := afterEngine s.events }) ∨
    (s.phase = .idle ∧ checkInstr i (s.snapshotWith (encode i)) = none ∧ engineNext s.events = false ∧
      command i pass s = start i (accept (encode i) s)) := by
  unfold command
  cases hp : s.phase with
  | busy => exact .inl ⟨rfl, rfl⟩
  | idle =>
    cases hc : checkInstr i (s.snapshotWith (encode i)) with
    | some e => exact .inr (.inl ⟨e, rfl, rfl, rfl⟩)
    | none =>
      cases hn : engineNext s.events with
      | true => exact .inr (.inr (.inl ⟨rfl, rfl, rfl, by simp⟩))
      | false => exact .inr (.inr (.inr ⟨rfl, rfl, rfl, by simp⟩))

/-- All that a CMD write of any word can do up to the start of execution (30_encoding.md R110). -/
theorem issue_cases (v : Word) (s : State) :
    (s.phase = .busy ∧ issue v s = overrun s) ∨
    (∃ x, s.phase = .idle ∧ decode v = .error x ∧ issue v s = configError .illegalCmd (accept v s)) ∨
    (∃ i e, s.phase = .idle ∧ decode v = .ok i ∧ checkInstr i (s.snapshotWith v) = some e ∧
      issue v s = configError e (accept v s)) ∨
    (∃ i, s.phase = .idle ∧ decode v = .ok i ∧ checkInstr i (s.snapshotWith v) = none ∧
      issue v s = start i (accept v s)) := by
  unfold issue
  cases hp : s.phase with
  | busy => exact .inl ⟨rfl, rfl⟩
  | idle =>
    cases hd : decode v with
    | error x => exact .inr (.inl ⟨x, rfl, rfl, rfl⟩)
    | ok i =>
      cases hc : checkInstr i (s.snapshotWith v) with
      | some e => exact .inr (.inr (.inl ⟨i, e, rfl, rfl, hc, by simp [hc]⟩))
      | none => exact .inr (.inr (.inr ⟨i, rfl, rfl, hc, by simp [hc]⟩))

/-- A command in flight ends in exactly one of two ways (30_encoding.md R111). -/
theorem finish_cases (i : Instr) (pass : State → List ByteStore) (s : State) :
    (busRefuses i s = true ∧ finish i pass s = busError i s) ∨
    (busRefuses i s = false ∧ finish i pass s = complete i (pass s) s) := by
  unfold finish
  cases busRefuses i s <;> simp

/-- What the end of a command does to the flags (60_exceptions.md R247, R248). -/
theorem finish_flags (i : Instr) (pass : State → List ByteStore) (s : State) :
    (finish i pass s).ovr = s.ovr ∧
    (busRefuses i s = true → (finish i pass s).done = s.done ∧ (finish i pass s).err = true ∧ (finish i pass s).errCode = 8) ∧
    (busRefuses i s = false →
      (finish i pass s).done = true ∧ (finish i pass s).err = s.err ∧ (finish i pass s).errCode = s.errCode) := by
  unfold finish
  cases busRefuses i s <;> simp [busError, complete, raiseError, retire, ErrCode.code]

/-- A command's rule reads the snapshot, memory and the draw counter only. -/
theorem passOf_congr (i : Instr) (s u : State) (hs : s.snap = u.snap) (hm : s.mem = u.mem) (hd : s.draws = u.draws) :
    passOf i s = passOf i u := by
  have hi : ∀ a b, imAt (horizontalPass s) a b = imAt (horizontalPass u) a b := by
    intro a b
    simp only [imAt, horizontalPass, hs, hm, hd]
  have hv : vr (horizontalPass s) = vr (horizontalPass u) := by
    funext r c
    simp only [vr, v2, hi]
    simp only [horizontalPass, hs]
  have hp : (horizontalPass s).snap = (horizontalPass u).snap := hs
  cases i <;>
    simp only [passOf, srCopyPass, srXPass, srYPass, srTwoDPass, srAutoPass, cmpCopyPass, cmpXPass, cmpYPass, cmpTwoDPass,
      cmpAutoPass, avgCopyPass, avgXPass, avgYPass, avgTwoDPass, avgAutoPass, jntCopyPass, jntXPass, jntYPass, jntTwoDPass,
      jntAutoPass, singleTwoD, predTwoD, hv, hp, hs, hm]

set_option linter.unusedSimpArgs false in
/-- Of memory, a command's rule reads the bytes of its read footprint only (20_memory.md R76, R78). -/
theorem passOf_readFootprint_congr (i : Instr) (s u : State) (he : s.snap = u.snap) (hd : s.draws = u.draws)
    (hm : ∀ a ∈ readFootprint i s.snap, s.mem.read8 a = u.mem.read8 a) : passOf i s = passOf i u := by
  have hsamp : ∀ r c : Int, r ∈ fullRows (s.snap.path i) s.snap → c ∈ fullCols (s.snap.path i) s.snap →
      sample s.snap s.mem r c = sample s.snap u.mem r c := by
    intro r c hr hc
    have := hm (srcAddr s.snap r c) (List.mem_append_left _
      (List.mem_map.2 ⟨(r, c), (mem_fullWindow _ _ r c).2 ⟨hr, hc⟩, rfl⟩))
    unfold sample
    rw [this]
  have hex : i.mode.readsCbuf = true → ∀ r < s.snap.h, ∀ c < s.snap.w,
      existing s.snap s.mem r c = existing s.snap u.mem r c := by
    intro hc r hr c hcw
    have h1 : ∀ a ∈ cbufBytes s.snap, s.mem.read8 a = u.mem.read8 a := fun a ha =>
      hm a (by simp only [readFootprint, hc, if_true, List.mem_append]; exact .inr ha)
    unfold existing Memory.read16
    rw [h1 _ ((mem_cbufBytes _ _).2 ⟨r, hr, c, hcw, .inl rfl⟩), h1 _ ((mem_cbufBytes _ _).2 ⟨r, hr, c, hcw, .inr rfl⟩)]
  have hcopy : s.snap.path i = .copy → ∀ r < s.snap.h, ∀ c < s.snap.w,
      sample s.snap s.mem r c = sample s.snap u.mem r c := by
    intro hp r hr c hc
    refine hsamp _ _ ?_ ?_ <;> rw [hp]
    · exact (mem_blockRows _ _).2 ⟨by omega, by omega⟩
    · exact (mem_blockCols _ _).2 ⟨by omega, by omega⟩
  have hx : s.snap.path i = .x → ∀ r < s.snap.h, ∀ c < s.snap.w, hs s.snap s.mem r c = hs s.snap u.mem r c := by
    intro hp r hr c hc
    refine tapSum_congr _ _ _ fun k hk => hsamp _ _ ?_ ?_ <;> rw [hp]
    · exact (mem_blockRows _ _).2 ⟨by omega, by omega⟩
    · exact (mem_windowCols _ _).2 ⟨by simp only [Config.tapOrigin]; omega, by simp only [Config.tapOrigin]; omega⟩
  have hy : s.snap.path i = .y → ∀ r < s.snap.h, ∀ c < s.snap.w, vs s.snap s.mem r c = vs s.snap u.mem r c := by
    intro hp r hr c hc
    refine tapSum_congr _ _ _ fun k hk => hsamp _ _ ?_ ?_ <;> rw [hp]
    · exact (mem_windowRows _ _).2 ⟨by simp only [Config.tapOrigin]; omega, by simp only [Config.tapOrigin]; omega⟩
    · exact (mem_blockCols _ _).2 ⟨by omega, by omega⟩
  have him : s.snap.path i = .twoD → imCells s.snap s.mem = imCells s.snap u.mem := by
    intro hp
    unfold imCells
    refine List.flatMap_congr fun r hr => List.map_congr_left fun c hc => ?_
    rw [mem_windowRows] at hr
    rw [mem_blockCols] at hc
    have : hs s.snap s.mem r c = hs s.snap u.mem r c := by
      refine tapSum_congr _ _ _ fun k hk => hsamp _ _ ?_ ?_ <;> rw [hp]
      · exact (mem_windowRows _ _).2 hr
      · exact (mem_windowCols _ _).2 ⟨by simp only [Config.tapOrigin]; omega, by simp only [Config.tapOrigin]; omega⟩
    rw [imValue, imValue, this]
  have hv : s.snap.path i = .twoD → ∀ r c, vr (horizontalPass s) r c = vr (horizontalPass u) r c := by
    intro hp r c
    simp only [vr, v2, imAt, horizontalPass, ← he, him hp, hd]
  cases hp : s.snap.path i with
  | copy =>
    have h := hcopy hp
    cases i <;> first
      | (simp only [passOf, srAutoPass, cmpAutoPass, avgAutoPass, jntAutoPass, ← he]
         simp only [Snapshot.path, Instr.kind] at hp
         simp only [hp, srCopyPass, cmpCopyPass, avgCopyPass, jntCopyPass, ← he]
         refine forBlock_congr _ _ _ fun r hr c hc => ?_
         first | simp only [predCopy, h r hr c hc, hex rfl r hr c hc] | simp only [predCopy, h r hr c hc])
      | exact nomatch hp
  | x =>
    have h := hx hp
    cases i <;> first
      | (simp only [passOf, srAutoPass, cmpAutoPass, avgAutoPass, jntAutoPass, ← he]
         simp only [Snapshot.path, Instr.kind] at hp
         simp only [hp, srXPass, cmpXPass, avgXPass, jntXPass, ← he]
         refine forBlock_congr _ _ _ fun r hr c hc => ?_
         first | simp only [singleX, predX, h r hr c hc, hex rfl r hr c hc] | simp only [singleX, predX, h r hr c hc])
      | exact nomatch hp
  | y =>
    have h := hy hp
    cases i <;> first
      | (simp only [passOf, srAutoPass, cmpAutoPass, avgAutoPass, jntAutoPass, ← he]
         simp only [Snapshot.path, Instr.kind] at hp
         simp only [hp, srYPass, cmpYPass, avgYPass, jntYPass, ← he]
         refine forBlock_congr _ _ _ fun r hr c hc => ?_
         first | simp only [singleY, predY, h r hr c hc, hex rfl r hr c hc] | simp only [singleY, predY, h r hr c hc])
      | exact nomatch hp
  | twoD =>
    have h := hv hp
    have h1 : (horizontalPass s).snap = s.snap := rfl
    have h2 : (horizontalPass u).snap = s.snap := he.symm
    cases i <;> first
      | (simp only [passOf, srAutoPass, cmpAutoPass, avgAutoPass, jntAutoPass, ← he]
         simp only [Snapshot.path, Instr.kind] at hp
         simp only [hp, srTwoDPass, cmpTwoDPass, avgTwoDPass, jntTwoDPass, ← he]
         refine forBlock_congr _ _ _ fun r hr c hc => ?_
         first | simp only [singleTwoD, predTwoD, h, h1, h2, hex rfl r hr c hc] | simp only [singleTwoD, predTwoD, h, h1, h2])
      | exact nomatch hp

/-- The end of a command does not look at the events to come. -/
theorem finish_events_congr (i : Instr) (s : State) (es : List Event) :
    finish i (passOf i) { s with events := es } = { finish i (passOf i) s with events := es } := by
  have hp : passOf i { s with events := es } = passOf i s := passOf_congr i _ _ rfl rfl rfl
  rcases finish_cases i (passOf i) s with ⟨h, e⟩ | ⟨h, e⟩
  · have hb : busRefuses i { s with events := es } = true := h
    rw [e, finish, if_pos hb]
    rfl
  · have hb : busRefuses i { s with events := es } = false := h
    rw [e, finish, hb, if_neg Bool.false_ne_true, hp]
    rfl

/-! ## The byte stores of the end of a command -/

theorem freeStores_fst (draw : Nat) (as : List Word) : (freeStores draw as).map Prod.fst = as := by
  simp [freeStores, Function.comp_def]

/-- What is stored at the end of a command lies where its rule stores. -/
theorem settle_fst (i : Instr) (s : State) (ws : List ByteStore) :
    (settle i s ws).map Prod.fst = ws.map Prod.fst := by
  unfold settle
  split_ifs
  · exact freeStores_fst _ _
  · rw [List.map_map]
    refine List.map_congr_left fun w _ => ?_
    simp only [Function.comp_apply]
    split_ifs <;> rfl

/-- Where nothing leaves the results unspecified, what is stored is what the rule computes. -/
theorem settle_of_quiet (i : Instr) (s : State) (ws : List ByteStore) (ht : s.tainted = false) (hr : s.raced = []) :
    settle i s ws = ws := by
  simp [settle, ht, hr, racedElement]

/-- Completion changes no byte outside the write footprint (20_memory.md R77). -/
theorem read8_resultMemory_other (i : Instr) (s : State) (a : Word) (h : s.mem.wf) (ha : a ∉ writeFootprint i s.snap) :
    (resultMemory i (passOf i s) s).read8 a = s.mem.read8 a := by
  refine Memory.read8_writeAll_other _ _ _ h fun w hw e => ha ?_
  have hm : w.1 ∈ (settle i s (passOf i s)).map Prod.fst := List.mem_map_of_mem hw
  rw [settle_fst, List.mem_map] at hm
  obtain ⟨u, hu, hue⟩ := hm
  rw [← e, ← hue]
  exact passOf_footprint i s u hu

/-- A bus error and a reset in flight change no byte outside the write footprint (60_exceptions.md R247). -/
theorem read8_freeStores_other (m : Memory) (draw : Nat) (as : List Word) (a : Word) (h : m.wf) (ha : a ∉ as) :
    (m.writeAll (freeStores draw as)).read8 a = m.read8 a := by
  refine Memory.read8_writeAll_other _ _ _ h fun w hw e => ha ?_
  have hm : w.1 ∈ (freeStores draw as).map Prod.fst := List.mem_map_of_mem hw
  rw [freeStores_fst] at hm
  exact e ▸ hm

/-- The end of a command keeps memory canonical. -/
theorem finish_mem_wf (i : Instr) (pass : State → List ByteStore) (s : State) (h : s.mem.wf) :
    (finish i pass s).mem.wf := by
  rcases finish_cases i pass s with ⟨-, e⟩ | ⟨-, e⟩ <;> rw [e]
  · rw [busError_mem]
    exact Memory.writeAll_wf _ _ h
  · rw [complete_mem]
    exact Memory.writeAll_wf _ _ h

/-- The end of a command leaves an IDLE engine. -/
theorem finish_phase (i : Instr) (pass : State → List ByteStore) (s : State) : (finish i pass s).phase = .idle := by
  rcases finish_cases i pass s with ⟨-, e⟩ | ⟨-, e⟩ <;> rw [e] <;> rfl

/-- The end of a command changes no register but STATUS. -/
theorem finish_frame (i : Instr) (pass : State → List ByteStore) (s : State) :
    (finish i pass s).cmd = s.cmd ∧ (finish i pass s).irqEn = s.irqEn ∧ (finish i pass s).regs = s.regs ∧
      (finish i pass s).ksel = s.ksel ∧ (finish i pass s).snap = s.snap ∧ (finish i pass s).ovr = s.ovr ∧
      (finish i pass s).events = s.events ∧ (finish i pass s).posted = s.posted := by
  rcases finish_cases i pass s with ⟨-, e⟩ | ⟨-, e⟩ <;> rw [e] <;> simp

/-- An issued command keeps memory canonical. -/
theorem command_mem_wf (i : Instr) (pass : State → List ByteStore) (s : State) (h : s.mem.wf) :
    (command i pass s).mem.wf := by
  rcases command_cases i pass s with ⟨-, e⟩ | ⟨_, -, -, e⟩ | ⟨-, -, -, e⟩ | ⟨-, -, -, e⟩ <;> rw [e]
  · exact h
  · exact h
  · exact finish_mem_wf _ _ _ h
  · exact h

/-- An agent's stores keep memory canonical. -/
theorem foldl_agentStore_mem_wf (ws : List ByteStore) (s : State) (h : s.mem.wf) :
    (ws.foldl agentStore s).mem.wf := by
  induction ws generalizing s with
  | nil => exact h
  | cons w ws ih => exact ih _ (Memory.write8_wf _ _ _ h)

/-- An agent's stores change memory, and the model's notes on the command in flight, and nothing else. -/
theorem foldl_agentStore_frame (ws : List ByteStore) (s : State) :
    (ws.foldl agentStore s).mem = s.mem.writeAll ws ∧ (ws.foldl agentStore s).phase = s.phase ∧
      (ws.foldl agentStore s).done = s.done ∧ (ws.foldl agentStore s).err = s.err ∧
      (ws.foldl agentStore s).ovr = s.ovr ∧ (ws.foldl agentStore s).errCode = s.errCode ∧
      (ws.foldl agentStore s).cmd = s.cmd ∧ (ws.foldl agentStore s).irqEn = s.irqEn ∧
      (ws.foldl agentStore s).regs = s.regs ∧ (ws.foldl agentStore s).ksel = s.ksel ∧
      (ws.foldl agentStore s).snap = s.snap ∧ (ws.foldl agentStore s).events = s.events ∧
      (ws.foldl agentStore s).posted = s.posted ∧ (ws.foldl agentStore s).stale = s.stale ∧ (ws.foldl agentStore s).draws = s.draws ∧
      (ws.foldl agentStore s).busHoles = s.busHoles := by
  induction ws generalizing s with
  | nil => simp
  | cons w ws ih => simpa using ih (agentStore s w)

/-- A draining store is an agent's store of the oldest posted byte. -/
theorem memDrainEvent_cases (s : State) :
    (s.posted = [] ∧ memDrainEvent s = s) ∨
    ∃ w ws, s.posted = w :: ws ∧ memDrainEvent s = [w].foldl agentStore { s with posted := ws } := by
  unfold memDrainEvent
  cases s.posted with
  | nil => exact .inl ⟨rfl, rfl⟩
  | cons w ws => exact .inr ⟨w, ws, rfl, rfl⟩

end Sys2Proof.Machine
end

