-- ==== Sys2Proof/Laws/Host.lean ====
section
/-! SUPPORT. What the host's and other agents' accesses to memory can do, each said once. -/

namespace Sys2Proof.Machine

/-! ## The bytes of an access -/

@[simp] theorem storeBytes_byte (a v : Word) : storeBytes .byte a v = [(a, v.setWidth 8)] := by
  simp [storeBytes, AccessSize.bytes, memWrite, asr]

@[simp] theorem loadValue_byte (a : Word) (s : State) : loadValue .byte a s = (loadByte s a).setWidth 32 := by
  simp [loadValue, AccessSize.bytes]

/-! ## The command in flight, seen from outside -/

theorem inFlightWrites_of_idle (s : State) (a : Word) (h : s.phase = .idle) : inFlightWrites s a = false := by
  simp [inFlightWrites, State.inFlight, h]

theorem inFlightReads_of_idle (s : State) (a : Word) (h : s.phase = .idle) : inFlightReads s a = false := by
  simp [inFlightReads, State.inFlight, h]

theorem inFlightWrites_iff (s : State) (i : Instr) (a : Word) (h : s.inFlight = some i) :
    inFlightWrites s a = true ↔ a ∈ writeFootprint i s.snap := by
  simp [inFlightWrites, h]

theorem inFlightReads_iff (s : State) (i : Instr) (a : Word) (h : s.inFlight = some i) :
    inFlightReads s a = true ↔ a ∈ readFootprint i s.snap := by
  simp [inFlightReads, h]

/-! ## Loads -/

/-- The host's own posted byte is what it reads. -/
theorem loadByte_of_posted (s : State) (a : Word) (b : Byte) (h : postedAt s a = some b) : loadByte s a = b := by
  simp [loadByte, h]

/-- What a byte of a host load can be when the host has posted none at its address. -/
theorem loadByte_cases (s : State) (a : Word) (h : postedAt s a = none) :
    loadByte s a = s.mem.read8 a ∨ (inFlightWrites s a = true ∧ loadByte s a = newByte s a) ∨
      (inFlightWrites s a = false ∧ a ∈ s.stale ∧ Config.platformCoherent = false) := by
  unfold loadByte
  rw [h]
  cases hw : inFlightWrites s a with
  | true => cases Config.seesNew s.draws (elementOf s a) <;> simp
  | false => by_cases hs : a ∈ s.stale <;> cases Config.platformCoherent <;> simp [hs]

/-- A byte that no posted store, no command in flight and no older copy touches reads as memory holds it. -/
theorem loadByte_quiet (s : State) (a : Word) (hp : postedAt s a = none) (hw : inFlightWrites s a = false) (hs : a ∉ s.stale) :
    loadByte s a = s.mem.read8 a := by
  simp [loadByte, hp, hw, hs]

theorem postedAt_nil (s : State) (a : Word) (h : s.posted = []) : postedAt s a = none := by
  simp [postedAt, h]

/-! ## The end of a command, byte by byte -/

/-- The byte the command stores where its rule computes `w`: the computed one, or a free value. -/
theorem settle_eq_map (i : Instr) (s : State) (ws : List ByteStore) :
    settle i s ws = ws.map fun w =>
      if s.tainted || racedElement i.mode s.raced w.1 then (w.1, Config.anyByte s.draws w.1) else w := by
  unfold settle freeStores
  cases s.tainted <;> simp

/-- The two bytes of an element are each other's mates. -/
theorem elementMate_elementMate (m : Mode) (a : Word) : elementMate m (elementMate m a) = a := by
  unfold elementMate
  split_ifs <;> simp

/-! ## The platform's addresses -/

/-- An access whose first byte lies in the register block is one to its offset. -/
theorem mmioOffset_base (size : AccessSize) (off : BitVec 8) :
    mmioOffset size (Config.mmioBase + off.setWidth 32) = some off := by
  have h : ((List.range size.bytes).any fun k =>
      decide (Config.mmioBase + off.setWidth 32 + BitVec.ofNat 32 k - Config.mmioBase < 256)) = true := by
    rw [List.any_eq_true]
    have hb := off.isLt
    refine ⟨0, by cases size <;> simp [AccessSize.bytes], decide_eq_true ?_⟩
    rw [BitVec.add_zero, BitVec.add_comm, BitVec.add_sub_cancel, BitVec.lt_def, BitVec.toNat_setWidth]
    simp
    omega
  rw [mmioOffset, if_pos h, BitVec.add_comm, BitVec.add_sub_cancel]
  simp

end Sys2Proof.Machine
end

