-- ==== Sys2Proof/Laws/PerInstr.lean ====
section
/-! SUPPORT. Statements about each command as syntax: its fields are those the opcode map gives, and they are legal (spec 30_encoding.md R101, R103, R104). -/

namespace Sys2Proof.Laws.EncodedFields

/-- The encoded word of a command is well formed, its KIND field is that of its kind and its mode bits are those of its
mode. -/
def Statement (i : Instr) : Prop :=
  i.WellFormed ∧ kindOf (fieldsOf (encode i)).kind = some i.kind ∧
    ((fieldsOf (encode i)).cmpd, (fieldsOf (encode i)).avg, (fieldsOf (encode i)).jnt) = i.mode.bits

theorem srCopy : Statement .srCopy := ⟨by decide, by decide, by decide⟩

theorem srX : Statement .srX := ⟨by decide, by decide, by decide⟩

theorem srY : Statement .srY := ⟨by decide, by decide, by decide⟩

theorem srTwoD : Statement .srTwoD := ⟨by decide, by decide, by decide⟩

theorem srAuto : Statement .srAuto := ⟨by decide, by decide, by decide⟩

theorem cmpCopy : Statement .cmpCopy := ⟨by decide, by decide, by decide⟩

theorem cmpX : Statement .cmpX := ⟨by decide, by decide, by decide⟩

theorem cmpY : Statement .cmpY := ⟨by decide, by decide, by decide⟩

theorem cmpTwoD : Statement .cmpTwoD := ⟨by decide, by decide, by decide⟩

theorem cmpAuto : Statement .cmpAuto := ⟨by decide, by decide, by decide⟩

theorem avgCopy : Statement .avgCopy := ⟨by decide, by decide, by decide⟩

theorem avgX : Statement .avgX := ⟨by decide, by decide, by decide⟩

theorem avgY : Statement .avgY := ⟨by decide, by decide, by decide⟩

theorem avgTwoD : Statement .avgTwoD := ⟨by decide, by decide, by decide⟩

theorem avgAuto : Statement .avgAuto := ⟨by decide, by decide, by decide⟩

theorem jntCopy : Statement .jntCopy := ⟨by decide, by decide, by decide⟩

theorem jntX : Statement .jntX := ⟨by decide, by decide, by decide⟩

theorem jntY : Statement .jntY := ⟨by decide, by decide, by decide⟩

theorem jntTwoD : Statement .jntTwoD := ⟨by decide, by decide, by decide⟩

theorem jntAuto : Statement .jntAuto := ⟨by decide, by decide, by decide⟩

end Sys2Proof.Laws.EncodedFields
end

