-- ==== Sys2Proof/Laws/Step.lean ====
section
/-! SUPPORT. What a step can do, by its next event. -/

namespace Sys2Proof.Machine

theorem step_of_cons (s : State) (e : Event) (es : List Event) (h : s.events = e :: es) :
    step s = runEvent e { s with events := es } := by
  simp only [step, h]

theorem step_of_nil (s : State) (h : s.events = []) : step s = engineTurn s := by
  simp only [step, h]

theorem engineTurn_idle (s : State) (h : s.phase = .idle) : engineTurn s = .next s := by
  simp only [engineTurn, h]

theorem engineTurn_busy (s : State) (i : Instr) (h : s.phase = .busy) (hd : decode s.snap.cmd = .ok i) :
    engineTurn s = .next (finish i (passOf i) s) := by
  simp only [engineTurn, h, hd]

theorem regAt_cmdOffset : regAt cmdOffset = some .cmd := by decide

theorem mmioDefined_word (off : BitVec 8) (h : off.toNat % 4 = 0) : mmioDefined .word off = true := by
  simp [mmioDefined, h]

/-- Every listed offset is aligned (10_state.md R32). -/
theorem aligned_of_regAt (off : BitVec 8) (r : Reg) (h : regAt off = some r) : off.toNat % 4 = 0 := by
  have key : ∀ o : BitVec 8, (regAt o).isSome → o.toNat % 4 = 0 := by decide
  exact key off (by simp [h])

/-- A host write to a listed register other than CMD is its register's write. -/
theorem hostWrite_reg (off : BitVec 8) (v : Word) (s : State) (r : Reg) (h : regAt off = some r) (hr : r ≠ .cmd) :
    hostWrite .word off v s = .next (writeReg r v s) := by
  simp only [hostWrite, mmioDefined_word off (aligned_of_regAt off r h), if_true, h]

/-- A host write of a word that decodes to a command runs it. -/
theorem hostWrite_cmd_ok (v : Word) (s : State) (i : Instr) (h : decode v = .ok i) :
    hostWrite .word cmdOffset v s = exec i s := by
  simp only [hostWrite, mmioDefined_word cmdOffset (by decide), if_true, regAt_cmdOffset, h]

/-- A host write of an illegal word ends at acceptance. -/
theorem hostWrite_cmd_illegal (v : Word) (s : State) (x : FieldProblem) (h : decode v = .error x) :
    hostWrite .word cmdOffset v s = .next (issue v s) := by
  simp only [hostWrite, mmioDefined_word cmdOffset (by decide), if_true, regAt_cmdOffset, h]

/-- All that a host write can do. -/
theorem hostWrite_cases (size : AccessSize) (off : BitVec 8) (v : Word) (s : State) :
    (mmioDefined size off = false ∧ hostWrite size off v s = .refused .subWordMmio) ∨
    (∃ i, regAt off = some .cmd ∧ decode v = .ok i ∧ hostWrite size off v s = exec i s) ∨
    (∃ x, regAt off = some .cmd ∧ decode v = .error x ∧ hostWrite size off v s = .next (issue v s)) ∨
    (∃ r, r ≠ .cmd ∧ regAt off = some r ∧ hostWrite size off v s = .next (writeReg r v s)) ∨
    (regAt off = none ∧ hostWrite size off v s = .next s) := by
  unfold hostWrite
  cases hm : mmioDefined size off with
  | false => exact .inl ⟨rfl, by simp⟩
  | true =>
    cases hr : regAt off with
    | none => exact .inr (.inr (.inr (.inr ⟨rfl, by simp⟩)))
    | some r =>
      by_cases hc : r = .cmd
      · subst hc
        cases hd : decode v with
        | ok i => exact .inr (.inl ⟨i, rfl, rfl, by simp⟩)
        | error x => exact .inr (.inr (.inl ⟨x, rfl, rfl, by simp⟩))
      · refine .inr (.inr (.inr (.inl ⟨r, hc, rfl, ?_⟩)))
        cases r <;> simp_all

/-- A command in flight is one that decodes from the snapshot of a BUSY engine. -/
theorem inFlight_eq_some (s : State) (i : Instr) :
    s.inFlight = some i ↔ s.phase = .busy ∧ decode s.snap.cmd = .ok i := by
  unfold State.inFlight
  cases s.phase with
  | idle => simp
  | busy => cases decode s.snap.cmd <;> simp

/-- An access to memory from outside the engine leaves the register block, the phase and the snapshot as they are, and the events
to come. -/
theorem runEvent_memory_frame (e : Event) (s : State) (hw : ∀ size off v, e ≠ .regWrite size off v)
    (hr : ∀ size off, e ≠ .regRead size off) (he : e ≠ .engine) (hx : e ≠ .reset) :
    ∃ t, runEvent e s = .next t ∧ t.phase = s.phase ∧ t.done = s.done ∧ t.err = s.err ∧ t.ovr = s.ovr ∧
      t.errCode = s.errCode ∧ t.cmd = s.cmd ∧ t.irqEn = s.irqEn ∧ t.regs = s.regs ∧ t.ksel = s.ksel ∧ t.snap = s.snap ∧
      t.events = s.events := by
  have fold : ∀ (ws : List ByteStore) (u : State), ∃ t, ws.foldl agentStore u = t ∧ t.phase = u.phase ∧ t.done = u.done ∧
      t.err = u.err ∧ t.ovr = u.ovr ∧ t.errCode = u.errCode ∧ t.cmd = u.cmd ∧ t.irqEn = u.irqEn ∧ t.regs = u.regs ∧
      t.ksel = u.ksel ∧ t.snap = u.snap ∧ t.events = u.events := by
    intro ws u
    obtain ⟨-, h1, h2, h3, h4, h5, h6, h7, h8, h9, h10, h11, -⟩ := foldl_agentStore_frame ws u
    exact ⟨_, rfl, h1, h2, h3, h4, h5, h6, h7, h8, h9, h10, h11⟩
  cases e with
  | regWrite size off v => exact absurd rfl (hw size off v)
  | regRead size off => exact absurd rfl (hr size off)
  | engine => exact absurd rfl he
  | reset => exact absurd rfl hx
  | memLoad size a => exact ⟨_, rfl, rfl, rfl, rfl, rfl, rfl, rfl, rfl, rfl, rfl, rfl, rfl⟩
  | memPost size a v => exact ⟨_, rfl, rfl, rfl, rfl, rfl, rfl, rfl, rfl, rfl, rfl, rfl, rfl⟩
  | memInvalidate lo hi => exact ⟨_, rfl, rfl, rfl, rfl, rfl, rfl, rfl, rfl, rfl, rfl, rfl, rfl⟩
  | memStore size a v =>
    obtain ⟨t, h, f⟩ := fold (storeBytes size a v) (refresh ((storeBytes size a v).map Prod.fst) s)
    exact ⟨t, congrArg Host.Outcome.next h, f⟩
  | otherStore size a v =>
    obtain ⟨t, h, f⟩ := fold (storeBytes size a v) { s with stale := s.stale ++ (storeBytes size a v).map Prod.fst }
    exact ⟨t, congrArg Host.Outcome.next h, f⟩
  | memFence =>
    obtain ⟨t, h, f⟩ := fold s.posted { s with posted := [] }
    exact ⟨t, congrArg Host.Outcome.next h, f⟩
  | memDrain =>
    rcases memDrainEvent_cases s with ⟨-, h⟩ | ⟨w, ws, -, h⟩
    · exact ⟨s, congrArg Host.Outcome.next h, rfl, rfl, rfl, rfl, rfl, rfl, rfl, rfl, rfl, rfl, rfl⟩
    · obtain ⟨t, h', f⟩ := fold [w] { s with posted := ws }
      exact ⟨t, congrArg Host.Outcome.next (h.trans h'), f⟩

/-- A register read leaves all but the value returned as it is. -/
theorem hostRead_frame (size : AccessSize) (off : BitVec 8) (s t : State) (h : hostRead size off s = .next t) :
    ∃ v, t = { s with rdata := v } := by
  unfold hostRead at h
  split at h
  · split at h <;> cases h <;> exact ⟨_, rfl⟩
  · cases h

/-- Where the end of the command in flight comes next, the step is that end. -/
theorem step_of_engineNext (s : State) (i : Instr) (h : s.inFlight = some i) (hn : engineNext s.events = true) :
    step s = .next (finish i (passOf i) { s with events := afterEngine s.events }) := by
  obtain ⟨hp, hd⟩ := (inFlight_eq_some s i).1 h
  cases he : s.events with
  | nil =>
    rw [step_of_nil s he, engineTurn_busy s i hp hd]
    cases s
    simp_all [afterEngine]
  | cons e es =>
    rw [he] at hn
    cases e <;> first
      | exact (step_of_cons s _ _ he).trans (engineTurn_busy { s with events := es } i hp hd)
      | exact absurd hn Bool.false_ne_true

end Sys2Proof.Machine
end

