-- ==== Sys2Proof/Tests/Slice0.lean ====
section
/-! SUPPORT. Tests: expected values are those of the spec's vectors (95_test_vectors.md) unless a comment says otherwise. -/

namespace Sys2Proof.Tests

open Sys2Proof.Machine Sys2Proof.Safety

/-! ## Well-formed fields: an ill-formed term for each check (30_encoding.md R105) -/

theorem test_wellFormed_legal : (CommandFields.mk 3 true true true 0).wellFormed = true := by decide

theorem test_wellFormed_refuses_reserved_bits :
    (CommandFields.mk 3 false false false 1).problem = some .reservedBits := by decide

theorem test_wellFormed_refuses_kind_5 : (CommandFields.mk 5 false false false 0).problem = some .reservedKind := by decide

theorem test_wellFormed_refuses_kind_7 : (CommandFields.mk 7 true true true 0).problem = some .reservedKind := by decide

theorem test_wellFormed_refuses_avg_without_cmpd :
    (CommandFields.mk 0 false true false 0).problem = some .illegalMode := by decide

theorem test_wellFormed_refuses_jnt_without_avg :
    (CommandFields.mk 0 true false true 0).problem = some .illegalMode := by decide

/-! ## Decoding: each word written out bit by bit, `reserved JNT AVG CMPD KIND` (30_encoding.md R101, R104) -/

theorem test_decode_sr_copy : decode 0b00000000000000000000000000_0_0_0_000 = .ok .srCopy := by decide
theorem test_decode_sr_x : decode 0b00000000000000000000000000_0_0_0_001 = .ok .srX := by decide
theorem test_decode_sr_y : decode 0b00000000000000000000000000_0_0_0_010 = .ok .srY := by decide
theorem test_decode_sr_2d : decode 0b00000000000000000000000000_0_0_0_011 = .ok .srTwoD := by decide
theorem test_decode_sr_auto : decode 0b00000000000000000000000000_0_0_0_100 = .ok .srAuto := by decide
theorem test_decode_cmp_copy : decode 0b00000000000000000000000000_0_0_1_000 = .ok .cmpCopy := by decide
theorem test_decode_cmp_x : decode 0b00000000000000000000000000_0_0_1_001 = .ok .cmpX := by decide
theorem test_decode_cmp_y : decode 0b00000000000000000000000000_0_0_1_010 = .ok .cmpY := by decide
theorem test_decode_cmp_2d : decode 0b00000000000000000000000000_0_0_1_011 = .ok .cmpTwoD := by decide
theorem test_decode_cmp_auto : decode 0b00000000000000000000000000_0_0_1_100 = .ok .cmpAuto := by decide
theorem test_decode_avg_copy : decode 0b00000000000000000000000000_0_1_1_000 = .ok .avgCopy := by decide
theorem test_decode_avg_x : decode 0b00000000000000000000000000_0_1_1_001 = .ok .avgX := by decide
theorem test_decode_avg_y : decode 0b00000000000000000000000000_0_1_1_010 = .ok .avgY := by decide
theorem test_decode_avg_2d : decode 0b00000000000000000000000000_0_1_1_011 = .ok .avgTwoD := by decide
theorem test_decode_avg_auto : decode 0b00000000000000000000000000_0_1_1_100 = .ok .avgAuto := by decide
theorem test_decode_jnt_copy : decode 0b00000000000000000000000000_1_1_1_000 = .ok .jntCopy := by decide
theorem test_decode_jnt_x : decode 0b00000000000000000000000000_1_1_1_001 = .ok .jntX := by decide
theorem test_decode_jnt_y : decode 0b00000000000000000000000000_1_1_1_010 = .ok .jntY := by decide
theorem test_decode_jnt_2d : decode 0b00000000000000000000000000_1_1_1_011 = .ok .jntTwoD := by decide
theorem test_decode_jnt_auto : decode 0b00000000000000000000000000_1_1_1_100 = .ok .jntAuto := by decide

/-- V-ERR-1 to V-ERR-4. -/
theorem test_decode_illegal_words :
    [0x05, 0x07, 0x0D, 0x1F, 0x10, 0x30, 0x28, 0x20, 0x40, 0x80000003].all
      (fun w : Word => match decode w with | .ok _ => false | .error _ => true) = true := by decide

theorem test_decodeTableWord : decodeTableWord 32 0x3B = some .jntTwoD := by decide

/-- The assembler names of 30_encoding.md R109. -/
theorem test_mnemonic : Instr.mnemonic .jntTwoD = "conv.jnt.2d" := by decide

/-! ## Operations -/

/-- V-DP-1. -/
theorem test_round :
    [roundShift 5 1, roundShift 6 2, roundShift 7 0, roundShift (-1) 1, roundShift (-3) 1, roundShift (-5) 2] =
      [3, 2, 7, 0, -1, -1] := by decide

/-- V-DP-2. -/
theorem test_clip8 : [clip8 (-1), clip8 0, clip8 255, clip8 256, clip8 577] = [0, 0, 255, 255, 255] := by decide

/-- V-FB-10. -/
theorem test_effStyle :
    [effStyle .sharp true 4, effStyle .sharp true 5, effStyle .sharp false 4, effStyle .smooth true 2,
      effStyle .bilinear true 4, effStyle .regular true 4] =
      [.regular4, .sharp, .sharp, .smooth4, .bilinear, .regular4] := by decide

/-- A state that differs from reset in KSEL. -/
def kselState (k : Word) : State := { State.reset with ksel := k }

/-- V-FB-1. -/
theorem test_readout_sharp :
    [Reg.ktap01, .ktap23, .ktap45, .ktap67, .kinfo].map (fun r => readReg r (kselState 0x208)) =
      [0x000CFFFC, 0x0050FFE8, 0xFFE80050, 0xFFFC000C, 8] := by decide

/-- V-FB-5. -/
theorem test_readout_regular4 :
    [Reg.ktap01, .ktap23, .ktap45, .ktap67, .kinfo].map (fun r => readReg r (kselState 0x408)) =
      [0, 0x004CFFF4, 0xFFF4004C, 0, 4] := by decide

/-- V-FB-8. -/
theorem test_readout_reserved :
    [Reg.ktap01, .ktap23, .ktap45, .ktap67, .kinfo].map (fun r => readReg r (kselState 0x70F)) =
      [0, 0, 0, 0, 0] := by decide

/-! ## States for the commands: a 1x1 block at 0x1033, whose row -3..4 (source stride 16) or column -3..4 (source stride 1)
holds 10 20 .. 80, and a CBUF element 7744 at 0x3000 -/

/-- The samples 10 20 .. 80, and CBUF 7744 = 0x1E40. -/
def rampMem : Memory :=
  [(0x1030, 10), (0x1031, 20), (0x1032, 30), (0x1033, 40), (0x1034, 50), (0x1035, 60), (0x1036, 70), (0x1037, 80),
    (0x3000, 0x40), (0x3001, 0x1E)]

/-- Every sample of the rows the stride 0 repeats is 128, and CBUF 7744. -/
def flatMem : Memory :=
  [(0x1030, 128), (0x1031, 128), (0x1032, 128), (0x1033, 128), (0x1034, 128), (0x1035, 128), (0x1036, 128),
    (0x1037, 128), (0x3000, 0x40), (0x3001, 0x1E)]

/-- One sample 200, and CBUF 7744. -/
def pointMem : Memory := [(0x1033, 200), (0x3000, 0x40), (0x3001, 0x1E)]

/-- The 1x1 block with a memory, a source stride, filters and a rounding profile. Weights (9, 7). -/
def unitState (m : Memory) (stride fx fy rnd : Word) : State :=
  { State.reset with
    mem := m
    regs :=
      { srcBase := 0x1033
        srcStride := stride
        dstBase := 0x2000
        dstStride := 1
        cbufBase := 0x3000
        cbufStride := 1
        blkSize := 0x00010001
        filtX := fx
        filtY := fy
        round := rnd
        weight := 0x0709 } }

/-- What a predicate says of the next state; false if there is none. -/
def nextIs (o : Host.Outcome State Fault Refusal) (q : State → Bool) : Bool :=
  match o with
  | .next t => q t
  | .fault _ => false
  | .refused _ => false

/-- A completed command: STATUS reads DONE only, and the DST sample is `v`. -/
def dstIs (v : Byte) (t : State) : Bool := statusWord t == 2 && t.mem.read8 0x2000 == v

/-- A completed command: STATUS reads DONE only, and the CBUF element is `v`. -/
def cbufIs (v : BitVec 16) (t : State) : Bool := statusWord t == 2 && t.mem.read16 0x3000 == v

/-! ## Single reference -/

/-- V-SR-1 (sample 200 = 0xC8). -/
theorem test_sr_copy : nextIs (exec .srCopy (unitState pointMem 16 0 0 0xB03)) (dstIs 0xC8) = true := by decide

/-- V-SR-2. -/
theorem test_sr_x : nextIs (exec .srX (unitState rampMem 16 8 0 0xB03)) (dstIs 45) = true := by decide

/-- V-SR-6: the row 0 31 0 0 0 0 0 0 with REGULAR p1 gives 1 on the x path. -/
theorem test_sr_x_two_roundings :
    nextIs (exec .srX (unitState [(0x1031, 31)] 16 1 0 0xB03)) (dstIs 1) = true := by decide

/-- V-SR-3. -/
theorem test_sr_y : nextIs (exec .srY (unitState rampMem 1 0 8 0xB03)) (dstIs 45) = true := by decide

/-- V-SR-6: the same column gives 0 on the y path. -/
theorem test_sr_y_one_rounding :
    nextIs (exec .srY (unitState [(0x1031, 31)] 1 0 1 0xB03)) (dstIs 0) = true := by decide

/-- X1 on one sample: constant 128 through BILINEAR phase 0 on both axes. -/
theorem test_sr_2d : nextIs (exec .srTwoD (unitState flatMem 0 0x300 0x300 0xB03)) (dstIs 128) = true := by decide

/-- V-SR-15. -/
theorem test_sr_2d_phase0_on_y :
    nextIs (exec .srTwoD (unitState rampMem 16 8 0 0xB03)) (dstIs 45) = true := by decide

/-- V-SR-14: resolves to COPY. -/
theorem test_sr_auto_copy : nextIs (exec .srAuto (unitState pointMem 16 0 0 0xB03)) (dstIs 0xC8) = true := by decide

/-- V-SR-3 by AUTO: `px = 0` resolves to Y. -/
theorem test_sr_auto_y : nextIs (exec .srAuto (unitState rampMem 1 0 8 0xB03)) (dstIs 45) = true := by decide

/-! ## Compound first pass -/

/-- V-CMP-2: `S = 255` gives 10224. -/
theorem test_cmp_copy :
    nextIs (exec .cmpCopy (unitState [(0x1033, 255)] 16 0 0 0x703)) (cbufIs 10224) = true := by decide

/-- V-CMP-1: the bytes of 7744 in memory order. -/
theorem test_cmp_copy_bytes :
    nextIs (exec .cmpCopy (unitState [(0x1033, 100)] 16 0 0 0x703))
      (fun t => t.mem.read8 0x3000 == 0x40 && t.mem.read8 0x3001 == 0x1E) = true := by decide

/-- V-CMP-3. -/
theorem test_cmp_x : nextIs (exec .cmpX (unitState rampMem 16 8 0 0x703)) (cbufIs 6864) = true := by decide

/-- V-CMP-7: SHARP p8, row 0 0 255 0 0 255 0 0. -/
theorem test_cmp_x_negative :
    nextIs (exec .cmpX (unitState [(0x1032, 255), (0x1035, 255)] 16 0x208 0 0x703)) (cbufIs 4614) = true := by decide

/-- V-CMP-4. -/
theorem test_cmp_y : nextIs (exec .cmpY (unitState rampMem 1 0 8 0x703)) (cbufIs 6864) = true := by decide

/-- V-CMP-5. -/
theorem test_cmp_2d : nextIs (exec .cmpTwoD (unitState flatMem 0 0x300 0x300 0x703)) (cbufIs 8192) = true := by decide

/-- V-CMP-8. -/
theorem test_cmp_2d_phase0_on_y :
    nextIs (exec .cmpTwoD (unitState rampMem 16 8 0 0x703)) (cbufIs 6864) = true := by decide

/-- V-CMP-10. -/
theorem test_cmp_auto : nextIs (exec .cmpAuto (unitState [(0x1033, 100)] 16 0 0 0x703)) (cbufIs 7744) = true := by decide

/-! ## Compound second pass -/

/-- V-AVG-1, the scenario X2. -/
theorem test_avg_copy : nextIs (exec .avgCopy (unitState pointMem 16 0 0 0x703)) (dstIs 150) = true := by decide

/-- V-AVG-7: an existing element 0 clips to 0. -/
theorem test_avg_copy_clips : nextIs (exec .avgCopy (unitState [] 16 0 0 0x703)) (dstIs 0) = true := by decide

/-- V-AVG-4. -/
theorem test_avg_x : nextIs (exec .avgX (unitState rampMem 16 8 0 0x703)) (dstIs 73) = true := by decide

/-- V-AVG-4. -/
theorem test_avg_y : nextIs (exec .avgY (unitState rampMem 1 0 8 0x703)) (dstIs 73) = true := by decide

/-- V-AVG-5. -/
theorem test_avg_2d : nextIs (exec .avgTwoD (unitState flatMem 0 0x300 0x300 0x703)) (dstIs 114) = true := by decide

/-- V-AVG-6. -/
theorem test_avg_auto : nextIs (exec .avgAuto (unitState rampMem 16 3 0 0x703)) (dstIs 71) = true := by decide

/-- V-JNT-1. -/
theorem test_jnt_copy : nextIs (exec .jntCopy (unitState pointMem 16 0 0 0x703)) (dstIs 144) = true := by decide

/-- V-JNT-7: the operands swapped give 156. -/
theorem test_jnt_copy_swapped :
    nextIs (exec .jntCopy (unitState [(0x1033, 100), (0x3000, 0x80), (0x3001, 0x24)] 16 0 0 0x703))
      (dstIs 156) = true := by decide

/-- V-JNT-2. -/
theorem test_jnt_x : nextIs (exec .jntX (unitState rampMem 16 8 0 0x703)) (dstIs 76) = true := by decide

/-- V-JNT-2. -/
theorem test_jnt_y : nextIs (exec .jntY (unitState rampMem 1 0 8 0x703)) (dstIs 76) = true := by decide

/-- V-JNT-3. -/
theorem test_jnt_2d : nextIs (exec .jntTwoD (unitState flatMem 0 0x300 0x300 0x703)) (dstIs 112) = true := by decide

/-- V-JNT-8. -/
theorem test_jnt_auto : nextIs (exec .jntAuto (unitState rampMem 16 3 0 0x703)) (dstIs 75) = true := by decide

/-! ## Errors and events (95_test_vectors.md section 8) -/

/-- The legal base of the vectors, with ROUND given. -/
def baseRegs (rnd : Word) : ConfigRegs :=
  { srcBase := 0x1033
    srcStride := 16
    dstBase := 0x2000
    dstStride := 4
    cbufBase := 0x3000
    cbufStride := 4
    blkSize := 0x00040004
    filtX := 0
    filtY := 0
    round := rnd
    weight := 0x0709 }

/-- The code with which a word is refused, on given registers. -/
def codeOf (v : Word) (g : ConfigRegs) : Option ErrCode := check { regs := g, cmd := v }

/-- V-ERR-5 to V-ERR-7: SIZE. -/
theorem test_check_size :
    [codeOf 0 { baseRegs 0xB03 with blkSize := 0x00040000 }, codeOf 0 { baseRegs 0xB03 with blkSize := 0x00800081 },
      codeOf 0 { baseRegs 0xB03 with blkSize := 0x00800080, dstStride := 128 }] = [some .size, some .size, none] := by
  decide

/-- V-ERR-9 to V-ERR-12: FILTER, of the filters that the resolved kind uses. -/
theorem test_check_filter :
    [codeOf 1 { baseRegs 0xB03 with filtX := 0x600 }, codeOf 1 { baseRegs 0xB03 with filtY := 0x708 },
      codeOf 0 { baseRegs 0xB03 with filtX := 0x600 }, codeOf 4 { baseRegs 0xB03 with filtX := 0x600, filtY := 5 },
      codeOf 4 { baseRegs 0xB03 with filtX := 0x601, filtY := 5 }] =
      [some .filter, none, none, none, some .filter] := by decide

/-- V-ERR-13 to V-ERR-16: ROUND. -/
theorem test_check_round :
    [codeOf 3 (baseRegs 0x703), codeOf 0 (baseRegs 0), codeOf 3 (baseRegs 0x707), codeOf 3 (baseRegs 0x608),
      codeOf 3 (baseRegs 0xE00), codeOf 0xB (baseRegs 0xB03), codeOf 0xB (baseRegs 0x403), codeOf 0xB (baseRegs 0x107),
      codeOf 0xB (baseRegs 0x404), codeOf 0xB (baseRegs 0x800)] =
      [some .round, some .round, none, some .round, some .round, some .round, some .round, none, none, some .round] := by
  decide

/-- V-ERR-17 to V-ERR-20: WEIGHT, for JNT only. -/
theorem test_check_weight :
    [codeOf 0x38 { baseRegs 0x703 with weight := 0x708 }, codeOf 0x38 { baseRegs 0x703 with weight := 0x0010 },
      codeOf 0x38 { baseRegs 0x703 with weight := 0x1000 }, codeOf 0x38 { baseRegs 0x703 with weight := 0x011F },
      codeOf 0x18 { baseRegs 0x703 with weight := 0x708 }] = [some .weight, none, none, some .weight, none] := by decide

/-- V-ERR-21 to V-ERR-25: STRIDE. -/
theorem test_check_stride :
    [codeOf 0 { baseRegs 0xB03 with dstStride := 3 }, codeOf 0 { baseRegs 0xB03 with dstStride := 3, blkSize := 0x10004 },
      codeOf 8 { baseRegs 0x703 with cbufStride := 3 }, codeOf 8 { baseRegs 0x703 with dstStride := 0 },
      codeOf 3 { baseRegs 0xB03 with srcStride := 0 }] = [some .stride, none, some .stride, none, none] := by decide

/-- V-ERR-26, V-ERR-27: ALIGN. -/
theorem test_check_align :
    [codeOf 8 { baseRegs 0x703 with cbufBase := 0x3001 }, codeOf 0 { baseRegs 0xB03 with cbufBase := 0x3001 }] =
      [some .align, none] := by decide

/-- V-PRI-2 to V-PRI-7: the priority order. -/
theorem test_check_priority :
    [codeOf 5 { baseRegs 0xB03 with blkSize := 0x40000 }, codeOf 1 { baseRegs 0xB03 with blkSize := 0x40000, filtX := 0x600 },
      codeOf 1 { baseRegs 0 with filtX := 0x600 }, codeOf 0x38 { baseRegs 0 with weight := 0 },
      codeOf 0x38 { baseRegs 0x703 with weight := 0, dstStride := 0 },
      codeOf 8 { baseRegs 0x703 with cbufStride := 0, cbufBase := 0x3001 }] =
      [some .illegalCmd, some .size, some .filter, some .round, some .weight, some .stride] := by decide

/-- V-PRI-1, as the first command after reset: refused with SIZE, and CMD reads the word. -/
theorem test_first_command_after_reset :
    nextIs (step (State.reset.withFetchWord 32 3)) (fun t => statusWord t == 0x204 && t.cmd == 3) = true := by decide

/-- V-ERR-1 by a step: an illegal word is accepted and refused with ILLEGAL_CMD. -/
theorem test_illegal_word :
    nextIs (step (State.reset.withFetchWord 32 5)) (fun t => statusWord t == 0x104 && t.cmd == 5) = true := by decide

/-- The 1x1 copy in flight: its end is not the next event. -/
def inFlightState : State :=
  command .srCopy srCopyPass { unitState pointMem 16 0 0 0xB03 with events := [.regRead .word 4] }

/-- V-EV-1: a CMD write while BUSY sets OVR, and the command completes. -/
theorem test_overrun :
    nextIs (step { inFlightState with events := [.regWrite .word 8 1] })
      (fun t => statusWord t == 9 && t.cmd == 0 &&
        nextIs (step t) (fun u => statusWord u == 0xA && u.mem.read8 0x2000 == 200)) = true := by decide

/-- V-EV-2: `STATUS = 0x20C`, write 4. -/
theorem test_status_clear_err :
    statusWord (writeStatus 4 { State.reset with err := true, ovr := true, errCode := 2 }) = 8 := by decide

/-- V-EV-3: bit 0 ignores the write. -/
theorem test_status_clear_ovr : statusWord (writeStatus 9 { State.reset with ovr := true }) = 0 := by decide

/-- V-EV-6, V-EV-8. -/
theorem test_irq :
    [irq { State.reset with err := true, errCode := 2, irqEn := 1 }, irq { State.reset with err := true, errCode := 2, irqEn := 2 },
      irq { State.reset with ovr := true, irqEn := 3 }] = [false, true, false] := by decide

/-- V-ERR-8, V-FB-9: reserved bits ignore writes. -/
theorem test_reserved_bits :
    [readReg .blkSize (writeReg .blkSize 0xAB04CD04 State.reset), readReg .ksel (writeReg .ksel 0xFFFFF2F8 State.reset)] =
      [0x00040004, 0x208] := by decide

/-- V-EV-9, V-EV-10. -/
theorem test_id_and_unlisted :
    nextIs (step { State.reset with events := [.regWrite .word 0 0xFFFFFFFF] }) (fun t => readReg .id t == 0x53434501) = true ∧
    nextIs (step { State.reset with events := [.regRead .word 0x3C] }) (fun t => t.rdata == 0) = true := by decide

/-- V-ERR-28 on the 1x1 block: a refused write ends the command with BUS; a byte outside the block is unchanged. -/
theorem test_bus_error :
    nextIs (exec .srCopy { unitState pointMem 16 0 0 0xB03 with busHoles := [⟨0x2000, 0x2000, 1, .write⟩] })
      (fun t => statusWord t == 0x804 && t.mem.read8 0x1033 == 200) = true := by decide

/-- 60_exceptions.md R247: a refused sample of the needed window. -/
theorem test_bus_error_needed :
    nextIs (exec .srX { unitState rampMem 16 8 0 0xB03 with busHoles := [⟨0x1031, 0x1031, 1, .read⟩] })
      (fun t => statusWord t == 0x804) = true := by decide

/-! ## The hypotheses of the statements can be met -/

/-- With nothing refused by the platform every access is admitted. -/
theorem busAdmits_of_no_holes (i : Instr) (s : State) (h : s.busHoles = []) : BusAdmits i s := by
  constructor <;> intros <;> simp [busOk, h]

/-- A command completes where its configuration is legal and nothing disturbs it. -/
theorem canComplete_of (i : Instr) (s : State) (hl : Legal i (accepted i s)) (hi : s.phase = .idle)
    (hn : engineNext s.events = true) (hb : s.busHoles = []) (ho : overlaps i (accepted i s) = false)
    (hp : s.posted = []) (hd : s.deviceRegions = []) (hm : s.mem.wf) : CanComplete i s :=
  ⟨⟨hi, hn, hl⟩, busAdmits_of_no_holes i s hb, ⟨ho, by simp [awaitsPosted, hp], by simp [touchesDevice, hd]⟩, hm⟩

/-- The single-reference witness: REGULAR p8 on both axes, profile (3, 11). -/
def srState : State := unitState rampMem 16 8 8 0xB03

/-- The compound witness: REGULAR p8 on both axes, profile (3, 7). -/
def compoundState : State := unitState rampMem 16 8 8 0x703

theorem rampMem_wf : rampMem.wf := by decide

theorem legal_sr : ∀ i ∈ [Instr.srCopy, .srX, .srY, .srTwoD], Legal i (accepted i srState) := by
  simp only [Legal, Violates, LegalRoundSr, LegalRoundCompound]; decide

theorem legal_compound :
    ∀ i ∈ [Instr.cmpCopy, .cmpX, .cmpY, .cmpTwoD, .avgCopy, .avgX, .avgY, .avgTwoD, .jntCopy, .jntX, .jntY, .jntTwoD],
      Legal i (accepted i compoundState) := by
  simp only [Legal, Violates, LegalRoundSr, LegalRoundCompound]; decide

/-- The commands of SrDirectResults and SrTwoDResult. -/
theorem witness_sr_completes : ∀ i ∈ [Instr.srCopy, .srX, .srY, .srTwoD], CanComplete i srState := by
  have ho : ∀ i ∈ [Instr.srCopy, .srX, .srY, .srTwoD], overlaps i (accepted i srState) = false := by decide
  exact fun i hi => canComplete_of i _ (legal_sr i hi) rfl rfl rfl (ho i hi) rfl rfl rampMem_wf

/-- The commands of the CMP, AVG and JNT statements but AUTO. -/
theorem witness_compound_completes :
    ∀ i ∈ [Instr.cmpCopy, .cmpX, .cmpY, .cmpTwoD, .avgCopy, .avgX, .avgY, .avgTwoD, .jntCopy, .jntX, .jntY, .jntTwoD],
      CanComplete i compoundState := by
  have ho : ∀ i ∈ [Instr.cmpCopy, .cmpX, .cmpY, .cmpTwoD, .avgCopy, .avgX, .avgY, .avgTwoD, .jntCopy, .jntX, .jntY,
      .jntTwoD], overlaps i (accepted i compoundState) = false := by decide
  exact fun i hi => canComplete_of i _ (legal_compound i hi) rfl rfl rfl (ho i hi) rfl rfl rampMem_wf

/-! AUTO with each of the four kinds it resolves to, the commands of that kind, and the 2-D command, in every mode: SrAutoResult,
CmpAutoResult, AvgAutoResult, JntAutoResult and PathsMatchTwoD -/

theorem witness_sr_copy : ∀ i ∈ [Instr.srAuto, .srCopy, .srTwoD],
    CanComplete i (unitState rampMem 16 0 0 0xB03) := by
  have hl : ∀ i ∈ [Instr.srAuto, .srCopy, .srTwoD],
      Legal i (accepted i (unitState rampMem 16 0 0 0xB03)) := by
    simp only [Legal, Violates, LegalRoundSr, LegalRoundCompound]; decide
  have ho : ∀ i ∈ [Instr.srAuto, .srCopy, .srTwoD],
      overlaps i (accepted i (unitState rampMem 16 0 0 0xB03)) = false := by decide
  exact fun i hi => canComplete_of i _ (hl i hi) rfl rfl rfl (ho i hi) rfl rfl rampMem_wf

theorem witness_compound_copy : ∀ i ∈ [Instr.cmpAuto, .cmpCopy, .cmpTwoD, .avgAuto, .avgCopy, .avgTwoD, .jntAuto, .jntCopy, .jntTwoD],
    CanComplete i (unitState rampMem 16 0 0 0x703) := by
  have hl : ∀ i ∈ [Instr.cmpAuto, .cmpCopy, .cmpTwoD, .avgAuto, .avgCopy, .avgTwoD, .jntAuto, .jntCopy, .jntTwoD],
      Legal i (accepted i (unitState rampMem 16 0 0 0x703)) := by
    simp only [Legal, Violates, LegalRoundSr, LegalRoundCompound]; decide
  have ho : ∀ i ∈ [Instr.cmpAuto, .cmpCopy, .cmpTwoD, .avgAuto, .avgCopy, .avgTwoD, .jntAuto, .jntCopy, .jntTwoD],
      overlaps i (accepted i (unitState rampMem 16 0 0 0x703)) = false := by decide
  exact fun i hi => canComplete_of i _ (hl i hi) rfl rfl rfl (ho i hi) rfl rfl rampMem_wf

theorem witness_sr_x : ∀ i ∈ [Instr.srAuto, .srX, .srTwoD],
    CanComplete i (unitState rampMem 16 8 0 0xB03) := by
  have hl : ∀ i ∈ [Instr.srAuto, .srX, .srTwoD],
      Legal i (accepted i (unitState rampMem 16 8 0 0xB03)) := by
    simp only [Legal, Violates, LegalRoundSr, LegalRoundCompound]; decide
  have ho : ∀ i ∈ [Instr.srAuto, .srX, .srTwoD],
      overlaps i (accepted i (unitState rampMem 16 8 0 0xB03)) = false := by decide
  exact fun i hi => canComplete_of i _ (hl i hi) rfl rfl rfl (ho i hi) rfl rfl rampMem_wf

theorem witness_compound_x : ∀ i ∈ [Instr.cmpAuto, .cmpX, .cmpTwoD, .avgAuto, .avgX, .avgTwoD, .jntAuto, .jntX, .jntTwoD],
    CanComplete i (unitState rampMem 16 8 0 0x703) := by
  have hl : ∀ i ∈ [Instr.cmpAuto, .cmpX, .cmpTwoD, .avgAuto, .avgX, .avgTwoD, .jntAuto, .jntX, .jntTwoD],
      Legal i (accepted i (unitState rampMem 16 8 0 0x703)) := by
    simp only [Legal, Violates, LegalRoundSr, LegalRoundCompound]; decide
  have ho : ∀ i ∈ [Instr.cmpAuto, .cmpX, .cmpTwoD, .avgAuto, .avgX, .avgTwoD, .jntAuto, .jntX, .jntTwoD],
      overlaps i (accepted i (unitState rampMem 16 8 0 0x703)) = false := by decide
  exact fun i hi => canComplete_of i _ (hl i hi) rfl rfl rfl (ho i hi) rfl rfl rampMem_wf

theorem witness_sr_y : ∀ i ∈ [Instr.srAuto, .srY, .srTwoD],
    CanComplete i (unitState rampMem 16 0 8 0xB03) := by
  have hl : ∀ i ∈ [Instr.srAuto, .srY, .srTwoD],
      Legal i (accepted i (unitState rampMem 16 0 8 0xB03)) := by
    simp only [Legal, Violates, LegalRoundSr, LegalRoundCompound]; decide
  have ho : ∀ i ∈ [Instr.srAuto, .srY, .srTwoD],
      overlaps i (accepted i (unitState rampMem 16 0 8 0xB03)) = false := by decide
  exact fun i hi => canComplete_of i _ (hl i hi) rfl rfl rfl (ho i hi) rfl rfl rampMem_wf

theorem witness_compound_y : ∀ i ∈ [Instr.cmpAuto, .cmpY, .cmpTwoD, .avgAuto, .avgY, .avgTwoD, .jntAuto, .jntY, .jntTwoD],
    CanComplete i (unitState rampMem 16 0 8 0x703) := by
  have hl : ∀ i ∈ [Instr.cmpAuto, .cmpY, .cmpTwoD, .avgAuto, .avgY, .avgTwoD, .jntAuto, .jntY, .jntTwoD],
      Legal i (accepted i (unitState rampMem 16 0 8 0x703)) := by
    simp only [Legal, Violates, LegalRoundSr, LegalRoundCompound]; decide
  have ho : ∀ i ∈ [Instr.cmpAuto, .cmpY, .cmpTwoD, .avgAuto, .avgY, .avgTwoD, .jntAuto, .jntY, .jntTwoD],
      overlaps i (accepted i (unitState rampMem 16 0 8 0x703)) = false := by decide
  exact fun i hi => canComplete_of i _ (hl i hi) rfl rfl rfl (ho i hi) rfl rfl rampMem_wf

theorem witness_sr_twoD : ∀ i ∈ [Instr.srAuto, .srTwoD],
    CanComplete i (unitState rampMem 16 8 8 0xB03) := by
  have hl : ∀ i ∈ [Instr.srAuto, .srTwoD],
      Legal i (accepted i (unitState rampMem 16 8 8 0xB03)) := by
    simp only [Legal, Violates, LegalRoundSr, LegalRoundCompound]; decide
  have ho : ∀ i ∈ [Instr.srAuto, .srTwoD],
      overlaps i (accepted i (unitState rampMem 16 8 8 0xB03)) = false := by decide
  exact fun i hi => canComplete_of i _ (hl i hi) rfl rfl rfl (ho i hi) rfl rfl rampMem_wf

theorem witness_compound_twoD : ∀ i ∈ [Instr.cmpAuto, .cmpTwoD, .avgAuto, .avgTwoD, .jntAuto, .jntTwoD],
    CanComplete i (unitState rampMem 16 8 8 0x703) := by
  have hl : ∀ i ∈ [Instr.cmpAuto, .cmpTwoD, .avgAuto, .avgTwoD, .jntAuto, .jntTwoD],
      Legal i (accepted i (unitState rampMem 16 8 8 0x703)) := by
    simp only [Legal, Violates, LegalRoundSr, LegalRoundCompound]; decide
  have ho : ∀ i ∈ [Instr.cmpAuto, .cmpTwoD, .avgAuto, .avgTwoD, .jntAuto, .jntTwoD],
      overlaps i (accepted i (unitState rampMem 16 8 8 0x703)) = false := by decide
  exact fun i hi => canComplete_of i _ (hl i hi) rfl rfl rfl (ho i hi) rfl rfl rampMem_wf

/-! The other statements, each by its name -/

theorem witness_LegalWordsAreExactlyTheTwenty :
    Instr.jntAuto.WellFormed ∧ decode 0x3C = .ok .jntAuto ∧ State.reset.phase = .idle ∧
    (∀ i : Instr, (5 : Word) ≠ encWord i) := by
  refine ⟨by decide, by decide, rfl, fun i => ?_⟩
  cases i <;> decide

/-- Both clauses: the event, and the words 0 and 2^32 - 1 at the ends of the range (the latter is illegal and shows that the
bound alone is met there). -/
theorem witness_StepRunsIssuedCommand :
    ({ srState with events := [.regWrite .word cmdOffset 0] } : State).events = .regWrite .word cmdOffset 0 :: [] ∧
    decode 0 = .ok .srCopy ∧ Instr.srCopy.WellFormed ∧
    0x3C < 2 ^ 32 ∧ decode (BitVec.ofNat 32 0x3C) = .ok .jntAuto ∧ Instr.jntAuto.WellFormed := by decide

/-- A state on a platform that refuses some accesses. -/
def holed (s : State) (h : BusHole) : State := { s with busHoles := [h] }

/-- A command that completes, and one that a refused access of its destination ends. -/
theorem witness_DeferredEndAgrees :
    (Runs .srX srState ∧ srState.events = [] ∧ Event.reset ≠ .engine ∧
      nextIs (exec .srX srState) (fun t => t.done && !t.err) = true) ∧
    (Runs .srX (holed srState ⟨0x2000, 0x2000, 1, .write⟩) ∧ (holed srState ⟨0x2000, 0x2000, 1, .write⟩).events = [] ∧
      nextIs (exec .srX (holed srState ⟨0x2000, 0x2000, 1, .write⟩)) (fun t => !t.done && t.err) = true) :=
  ⟨⟨⟨rfl, rfl, legal_sr _ (by decide)⟩, rfl, by decide, by decide⟩, ⟨rfl, rfl, legal_sr _ (by decide)⟩, rfl, by decide⟩

/-- Both clauses; the second by a STATUS write and by reset. -/
theorem witness_OverrunDropsWord :
    inFlightState.phase = .busy ∧
    nextIs (step { inFlightState with ovr := true, events := [.regWrite .word 0x04 8] }) (fun t => !t.ovr) = true ∧
    nextIs (step { inFlightState with ovr := true, events := [.reset] }) (fun t => !t.ovr) = true := by decide

/-- A legal word with a failing check, and an illegal word. -/
theorem witness_ConfigErrorIsPrecise :
    State.reset.phase = .idle ∧ check (State.reset.snapshotWith 0) = some .size ∧
    check (State.reset.snapshotWith 0xFFFFFFFF) = some .illegalCmd := by decide

theorem witness_CheckReportsFirstFailure :
    decode (srState.snapshotWith 3).cmd = .ok .srTwoD ∧
    decode (srState.snapshotWith 5).cmd = .error .reservedKind := by decide

theorem witness_AcceptanceStartsCommand :
    ({ srState with events := [.regRead .word 4] } : State).phase = .idle ∧
    engineNext ({ srState with events := [.regRead .word 4] } : State).events = false ∧
    Legal .srTwoD (accepted .srTwoD { srState with events := [.regRead .word 4] }) :=
  ⟨rfl, rfl, legal_sr _ (by decide)⟩

/-- From issue, with the end of the command left to the empty list of events and with it named next; and in flight, without a refused
access and with one. -/
theorem witness_CommandEndsExactlyOneWay :
    (Runs .srTwoD srState ∧ Runs .srTwoD { srState with events := [.engine, .reset] }) ∧
    ∀ h ∈ [⟨0x2000, 0x2000, 1, .write⟩, (⟨0x2001, 0x2001, 1, .write⟩ : BusHole)],
      ({ holed inFlightState h with events := [.engine, .reset] } : State).inFlight = some .srCopy ∧
      engineNext ({ holed inFlightState h with events := [.engine, .reset] } : State).events = true ∧
      (holed inFlightState h).done = false ∧ (holed inFlightState h).err = false ∧ (holed inFlightState h).errCode = 0 ∧
      busRefuses .srCopy { holed inFlightState h with events := [.engine, .reset] } = decide (h.lo = 0x2000) :=
  ⟨⟨⟨rfl, rfl, legal_sr _ (by decide)⟩, ⟨rfl, rfl, legal_sr _ (by decide)⟩⟩, by decide⟩

/-- A refused sample at each end of the needed row, a refused DST write, CBUF read and CBUF write. -/
theorem witness_AccessRefused :
    (AccessRefused .srX (accepted .srX srState) [⟨0x1031, 0x1031, 1, .read⟩] ∧
      AccessRefused .srX (accepted .srX srState) [⟨0x1036, 0x1036, 1, .read⟩] ∧
      AccessRefused .srX (accepted .srX srState) [⟨0x2000, 0x2000, 1, .write⟩]) ∧
    AccessRefused .avgX (accepted .avgX compoundState) [⟨0x3000, 0x3000, 2, .read⟩] ∧
    AccessRefused .cmpX (accepted .cmpX compoundState) [⟨0x3000, 0x3000, 2, .write⟩] :=
  ⟨⟨.inl ⟨(0, -2), by decide, by decide, by decide⟩, .inl ⟨(0, 3), by decide, by decide, by decide⟩,
      .inr (.inr (.inl ⟨rfl, 0x2000, by decide, by decide⟩))⟩,
    .inr (.inl ⟨rfl, 0x3000, by decide, by decide⟩), .inr (.inr (.inr ⟨rfl, 0x3000, by decide, by decide⟩))⟩

/-- One state for each of these accesses: the command issued in it. -/
theorem witness_RefusedAccessIsBusError :
    (∀ h ∈ [⟨0x1031, 0x1031, 1, .read⟩, ⟨0x1036, 0x1036, 1, .read⟩, (⟨0x2000, 0x2000, 1, .write⟩ : BusHole)],
      Runs .srX (holed srState h) ∧ (holed srState h).mem.wf ∧
        AccessRefused .srX (accepted .srX (holed srState h)) (holed srState h).busHoles) ∧
    (Runs .avgX (holed compoundState ⟨0x3000, 0x3000, 2, .read⟩) ∧ compoundState.mem.wf ∧
      AccessRefused .avgX (accepted .avgX (holed compoundState ⟨0x3000, 0x3000, 2, .read⟩))
        (holed compoundState ⟨0x3000, 0x3000, 2, .read⟩).busHoles) ∧
    (Runs .cmpX (holed compoundState ⟨0x3000, 0x3000, 2, .write⟩) ∧ compoundState.mem.wf ∧
      AccessRefused .cmpX (accepted .cmpX (holed compoundState ⟨0x3000, 0x3000, 2, .write⟩))
        (holed compoundState ⟨0x3000, 0x3000, 2, .write⟩).busHoles) := by
  obtain ⟨⟨h1, h2, h3⟩, h4, h5⟩ := witness_AccessRefused
  have hr : ∀ h, Runs .srX (holed srState h) := fun h => ⟨rfl, rfl, legal_sr _ (by decide)⟩
  refine ⟨fun h hh => ⟨hr h, rampMem_wf, ?_⟩, ⟨⟨rfl, rfl, legal_compound _ (by decide)⟩, rampMem_wf, h4⟩,
    ⟨⟨rfl, rfl, legal_compound _ (by decide)⟩, rampMem_wf, h5⟩⟩
  simp only [List.mem_cons, List.not_mem_nil, or_false] at hh
  rcases hh with rfl | rfl | rfl
  exacts [h1, h2, h3]

/-- The same accesses refused to the command in flight. -/
theorem witness_RefusedAccessIsBusError_inFlight :
    (∀ h ∈ [⟨0x1031, 0x1031, 1, .read⟩, ⟨0x1036, 0x1036, 1, .read⟩, (⟨0x2000, 0x2000, 1, .write⟩ : BusHole)],
      (holed (start .srX (accept (encode .srX) srState)) h).inFlight = some .srX ∧
        engineNext (holed (start .srX (accept (encode .srX) srState)) h).events = true ∧
        (holed (start .srX (accept (encode .srX) srState)) h).mem.wf ∧
        AccessRefused .srX (holed (start .srX (accept (encode .srX) srState)) h).snap
          (holed (start .srX (accept (encode .srX) srState)) h).busHoles) ∧
    ((holed (start .avgX (accept (encode .avgX) compoundState)) ⟨0x3000, 0x3000, 2, .read⟩).inFlight = some .avgX ∧
      AccessRefused .avgX (start .avgX (accept (encode .avgX) compoundState)).snap [⟨0x3000, 0x3000, 2, .read⟩]) ∧
    ((holed (start .cmpX (accept (encode .cmpX) compoundState)) ⟨0x3000, 0x3000, 2, .write⟩).inFlight = some .cmpX ∧
      AccessRefused .cmpX (start .cmpX (accept (encode .cmpX) compoundState)).snap [⟨0x3000, 0x3000, 2, .write⟩]) := by
  obtain ⟨⟨h1, h2, h3⟩, h4, h5⟩ := witness_AccessRefused
  refine ⟨fun h hh => ⟨(inFlight_eq_some _ _).2 ⟨rfl, by show decode (encode .srX) = _; decide⟩, rfl, rampMem_wf, ?_⟩, ⟨by decide, h4⟩, by decide, h5⟩
  simp only [List.mem_cons, List.not_mem_nil, or_false] at hh
  rcases hh with rfl | rfl | rfl
  exacts [h1, h2, h3]

/-- A byte of the reference window and both bytes of the CBUF element. -/
theorem witness_CompletionKeepsReadFootprint :
    CanComplete .avgX compoundState ∧ (∃ t, exec .avgX compoundState = .next t) ∧
    ∀ a ∈ [0x1030, 0x1037, 0x3000, 0x3001], BitVec.ofNat 32 a ∈ readFootprint .avgX (accepted .avgX compoundState) :=
  ⟨witness_compound_completes _ (by decide), ⟨_, rfl⟩, by decide⟩

theorem witness_KernelRomProperties :
    Style.sharp ≠ .bilinear ∧ (15 : BitVec 4) ≠ 0 ∧ (∀ k : Nat, (0 : Int) ≤ (fun _ : Nat => (255 : Int)) k ∧
      (fun _ : Nat => (255 : Int)) k ≤ 255) := ⟨by decide, by decide, fun _ => by simp⟩

/-- Each STYLE with its table, the reserved styles 6 and 7, and the two readouts of the spec. -/
theorem witness_KernelReadout :
    [0x000, 0x10F, 0x208, 0x300, 0x401, 0x50F].map (fun k : Word => (kselState k).ksel.extractLsb' 8 3) = [0, 1, 2, 3, 4, 5] ∧
    (kselState 0x600).ksel.extractLsb' 8 3 = 6 ∧ (kselState 0x70F).ksel.extractLsb' 8 3 = 7 ∧
    (kselState 0x208).ksel = 0x0208 ∧ (kselState 0x300).ksel = 0x0300 := by decide

/-- Legal profiles at the ends of their ranges, and the profile (3, 7). -/
theorem witness_CommandConstants :
    (∀ v ∈ [0xD01, 0x707], LegalRoundSr ((unitState [] 0 0 0 (BitVec.ofNat 32 v)).snapshotWith 0)) ∧
    (∀ v ∈ [0x701, 0x107, 0x707, 0x703], LegalRoundCompound ((unitState [] 0 0 0 (BitVec.ofNat 32 v)).snapshotWith 8)) ∧
    ((unitState [] 0 0 0 0x703).snapshotWith 8).r0 = 3 ∧ ((unitState [] 0 0 0 0x703).snapshotWith 8).r1 = 7 := by
  simp only [LegalRoundSr, LegalRoundCompound]; decide

/-- `r0` at 1 and 7; the rows -3 and H+3; the block position (0, 0) of a 1x1 block. -/
theorem witness_IntermediateBufferNeverWraps_VerticalSumFits : ∀ v ∈ [0xD01, 0x707],
    1 ≤ (issue 3 (unitState [] 16 8 8 (BitVec.ofNat 32 v))).snap.r0 ∧ (issue 3 (unitState [] 16 8 8 (BitVec.ofNat 32 v))).snap.r0 ≤ 7 ∧
    (∀ i ∈ [(-3 : Int), 4], -3 ≤ i ∧ i ≤ (issue 3 (unitState [] 16 8 8 (BitVec.ofNat 32 v))).snap.h + 3) ∧
    0 < (issue 3 (unitState [] 16 8 8 (BitVec.ofNat 32 v))).snap.w ∧ 0 < (issue 3 (unitState [] 16 8 8 (BitVec.ofNat 32 v))).snap.h := by decide

/-- The profiles at the ends of the compound range, and (3, 7). -/
theorem witness_PredictionRange :
    (∀ v ∈ [0x701, 0x107, 0x707], LegalRoundCompound ((unitState rampMem 16 8 8 (BitVec.ofNat 32 v)).snapshotWith 11)) ∧
    LegalRoundCompound (compoundState.snapshotWith 11) ∧ (compoundState.snapshotWith 11).r0 = 3 ∧
    (compoundState.snapshotWith 11).r1 = 7 := by
  simp only [LegalRoundCompound]; decide

/-- Each pair of phases with a zero, for both kinds of rounding; the highest legal style and phase on the other axis. -/
theorem witness_SinglePathsAgree_CompoundPathsAgree : ∀ q ∈ [(0, 0), (0x50F, 0), (0, 0x50F)],
    LegalRoundSr ((unitState rampMem 16 (BitVec.ofNat 32 q.1) (BitVec.ofNat 32 q.2) 0xB03).snapshotWith 3) ∧
    LegalRoundCompound ((unitState rampMem 16 (BitVec.ofNat 32 q.1) (BitVec.ofNat 32 q.2) 0x703).snapshotWith 11) ∧
    (styleOf ((unitState rampMem 16 (BitVec.ofNat 32 q.1) (BitVec.ofNat 32 q.2) 0x703).snapshotWith 11).sx).isSome = true ∧
    (styleOf ((unitState rampMem 16 (BitVec.ofNat 32 q.1) (BitVec.ofNat 32 q.2) 0x703).snapshotWith 11).sy).isSome = true ∧
    (((unitState rampMem 16 (BitVec.ofNat 32 q.1) (BitVec.ofNat 32 q.2) 0x703).snapshotWith 11).px = 0 ∨
      ((unitState rampMem 16 (BitVec.ofNat 32 q.1) (BitVec.ofNat 32 q.2) 0x703).snapshotWith 11).py = 0) := by
  simp only [LegalRoundSr, LegalRoundCompound]; decide

/-- Each kind with the phases it needs, in the mode SR; the witnesses above give the other modes. -/
theorem witness_PathsMatchTwoD :
    CanComplete .srAuto (unitState rampMem 16 8 8 0xB03) ∧ CanComplete .srTwoD (unitState rampMem 16 8 8 0xB03) ∧
    CanComplete .srCopy (unitState rampMem 16 0 0 0xB03) ∧ CanComplete .srTwoD (unitState rampMem 16 0 0 0xB03) ∧
    CanComplete .srX (unitState rampMem 16 8 0 0xB03) ∧ CanComplete .srTwoD (unitState rampMem 16 8 0 0xB03) ∧
    CanComplete .srY (unitState rampMem 16 0 8 0xB03) ∧ CanComplete .srTwoD (unitState rampMem 16 0 8 0xB03) ∧
    (accepted .srCopy (unitState rampMem 16 0 0 0xB03)).px = 0 ∧ (accepted .srCopy (unitState rampMem 16 0 0 0xB03)).py = 0 ∧
    (accepted .srX (unitState rampMem 16 8 0 0xB03)).py = 0 ∧ (accepted .srY (unitState rampMem 16 0 8 0xB03)).px = 0 :=
  ⟨witness_sr_twoD _ (by decide), witness_sr_twoD _ (by decide), witness_sr_copy _ (by decide),
    witness_sr_copy _ (by decide), witness_sr_x _ (by decide), witness_sr_x _ (by decide), witness_sr_y _ (by decide),
    witness_sr_y _ (by decide), by decide, by decide, by decide, by decide⟩

/-- `r0` at both ends of its range, on both axes; the 2-D path with the other phase 0. -/
theorem witness_HalfPelAverage : ∀ v ∈ [0xD01, 0x707],
    LegalRoundSr ((unitState rampMem 16 0x308 0x308 (BitVec.ofNat 32 v)).snapshotWith 1) ∧
    ((unitState rampMem 16 0x308 0x300 (BitVec.ofNat 32 v)).snapshotWith 3).sx = 3 ∧
    ((unitState rampMem 16 0x308 0x300 (BitVec.ofNat 32 v)).snapshotWith 3).px = 8 ∧
    ((unitState rampMem 16 0x308 0x300 (BitVec.ofNat 32 v)).snapshotWith 3).py = 0 ∧
    ((unitState rampMem 16 0x300 0x308 (BitVec.ofNat 32 v)).snapshotWith 3).sy = 3 ∧
    ((unitState rampMem 16 0x300 0x308 (BitVec.ofNat 32 v)).snapshotWith 3).px = 0 ∧
    ((unitState rampMem 16 0x300 0x308 (BitVec.ofNat 32 v)).snapshotWith 3).py = 8 := by
  simp only [LegalRoundSr]; decide

/-- The weights (8, 8), (16, 0) and (0, 16). -/
theorem witness_BlendLaws : ∀ q ∈ [(0x0808, 8), (0x0010, 16), (0x1000, 0)],
    (({ State.reset with regs := { baseRegs 0x703 with weight := BitVec.ofNat 32 q.1 } } : State).snapshotWith 0x38).fwd = q.2 ∧
    (({ State.reset with regs := { baseRegs 0x703 with weight := BitVec.ofNat 32 q.1 } } : State).snapshotWith 0x38).fwd +
      (({ State.reset with regs := { baseRegs 0x703 with weight := BitVec.ofNat 32 q.1 } } : State).snapshotWith 0x38).bck = 16 := by
  decide

/-- `r0`, and the shift of the primitives, at the ends of their ranges. -/
theorem witness_TwoStageRoundingDiffers_HalvedTapFormAgrees_RoundingPrimitives :
    (∀ r0 ∈ [1, 7], 1 ≤ r0 ∧ r0 ≤ 7) ∧ ((-1 : Int) < 0 ∧ 255 < (256 : Int) ∧ 0 ≤ (0 : Int) ∧ (255 : Int) ≤ 255) := by decide

/-- SIZE4 with the dimensions 4 and 5, and the styles of a snapshot. -/
theorem witness_SmallBlockSubstitution :
    (4 ≤ 4 ∧ 4 < 5) ∧ styleOf (srState.snapshotWith 3).sx = some .regular ∧
    styleOf ((unitState [] 0 0 0x1508 0).snapshotWith 3).sy = some .smooth4 := by decide

/-- Both ends of the range of STATUS writes. -/
theorem witness_StatusWriteClears :
    ({ State.reset with events := [.regWrite .word 0x04 0xFFFFFFFF] } : State).events = .regWrite .word 0x04 0xFFFFFFFF :: [] ∧
    ({ State.reset with events := [.regWrite .word 0x04 0] } : State).events = .regWrite .word 0x04 0 :: [] := ⟨rfl, rfl⟩

/-- The first and the last register of the list, and what the table's FILT_X and FILT_Y read back. -/
theorem witness_RegisterWriteReadBack :
    nextIs (step { State.reset with events := [.regWrite .word 0x0C 0xFFFFFFFF] }) (fun t => t.irqEn == 3) = true ∧
    nextIs (step { State.reset with events := [.regWrite .word 0x40 0xFFFFFFFF] }) (fun t => t.ksel == 0x70F) = true ∧
    nextIs (step { State.reset with events := [.regWrite .word 0x2C 0x102] }) (fun t => t.regs.filtX == 0x102) = true ∧
    nextIs (step { State.reset with events := [.regWrite .word 0x30 0x102] }) (fun t => t.regs.filtY == 0x102) = true := by
  decide

/-- Each clause: the first and last listed offsets; the unlisted offsets 0x3C, 0x58 and 0xFC; the last read-only register. -/
theorem witness_RegisterReadsAndIgnoredWrites :
    nextIs (step { State.reset with events := [.regRead .word 0x00] }) (fun t => t.rdata == 0x53434501) = true ∧
    nextIs (step { State.reset with events := [.regRead .word 0x54] }) (fun t => t.rdata == 8) = true ∧
    (∀ off ∈ [(0x3C : BitVec 8), 0x58, 0xFC], off.toNat % 4 = 0 ∧ (off = 0x3C ∨ 0x58 ≤ off) ∧
      nextIs (step { State.reset with rdata := 1, events := [.regRead .word off] }) (fun t => t.rdata == 0) = true) ∧
    (0x54 : BitVec 8).toNat % 4 = 0 ∧ (0x54 : BitVec 8) ∈ [(0x00 : BitVec 8), 0x44, 0x48, 0x4C, 0x50, 0x54] := by decide

/-- A narrow access at an aligned offset, and a word access at an unaligned one. -/
theorem witness_SubWordAccessRefused :
    (AccessSize.byte ≠ .word ∧ (0x08 : BitVec 8).toNat % 4 = 0) ∧ (0xFF : BitVec 8).toNat % 4 ≠ 0 := by decide

/-- Reset with no command in flight and with one. -/
theorem witness_ResetEventClears :
    State.reset.inFlight = none ∧ inFlightState.inFlight = some .srCopy ∧ inFlightState.mem.wf := by decide

/-- Each register at 0, and a write that takes it from 0. -/
theorem witness_AfterResetCommandsAreRefused :
    ({ srState with regs := { srState.regs with blkSize := 0 } } : State).regs.blkSize = 0 ∧
    (unitState rampMem 16 8 8 0).regs.round = 0 ∧ (unitState rampMem 16 8 8 0).phase = .idle ∧
    nextIs (step { State.reset with events := [.regWrite .word 0x28 1] }) (fun t => t.regs.blkSize != 0) = true ∧
    nextIs (step { State.reset with events := [.regWrite .word 0x34 1] }) (fun t => t.regs.round != 0) = true := by decide

/-- The smallest state of the invariant, and a step of it: reset, with a command word written. -/
theorem witness_StepKeepsInvariant_InvariantExcludesStops :
    MachineInv { State.reset with events := [.regWrite .word cmdOffset 3] } ∧
    (∃ t, step { State.reset with events := [.regWrite .word cmdOffset 3] } = .next t) ∧
    step { State.reset with events := [.regWrite .half cmdOffset 3] } = .refused .subWordMmio := by
  refine ⟨?_, ⟨_, rfl⟩, rfl⟩
  constructor <;> first | decide | (simp only [ReservedClear]; decide)

/-- A BUSY state of the invariant. -/
theorem witness_StepKeepsInvariant_busy : MachineInv inFlightState ∧ ∃ t, step inFlightState = .next t := by
  refine ⟨?_, ⟨_, rfl⟩⟩
  constructor <;> first | decide | (simp only [ReservedClear]; decide)

/-- The clauses on the phase; the second by the empty list of events, by the end of the command and by reset. -/
theorem witness_PhaseChangesOnlyByRule :
    nextIs (step { unitState pointMem 16 0 0 0xB03 with events := [.regWrite .word cmdOffset 0, .regRead .word 4] })
      (fun t => t.phase == .busy) = true ∧
    nextIs (step { inFlightState with events := [] }) (fun t => t.phase == .idle) = true ∧
    nextIs (step { inFlightState with events := [.engine] }) (fun t => t.phase == .idle) = true ∧
    nextIs (step { inFlightState with events := [.reset] }) (fun t => t.phase == .idle) = true := by decide

/-- The flags rise: DONE and ERR at the end of a command in flight and of one issued, ERR at a refused CMD write, OVR at a CMD write
while BUSY. -/
theorem witness_PhaseChangesOnlyByRule_rise :
    inFlightState.done = false ∧ inFlightState.err = false ∧ inFlightState.ovr = false ∧
    nextIs (step { inFlightState with events := [.engine] }) (fun t => t.done) = true ∧
    nextIs (step { unitState pointMem 16 0 0 0xB03 with events := [.regWrite .word cmdOffset 0] }) (fun t => t.done) = true ∧
    nextIs (step { holed inFlightState ⟨0x2000, 0x2000, 1, .write⟩ with events := [.engine] })
      (fun t => t.err && t.errCode == 8) = true ∧
    nextIs (step { holed (unitState pointMem 16 0 0 0xB03) ⟨0x2000, 0x2000, 1, .write⟩ with
      events := [.regWrite .word cmdOffset 0] }) (fun t => t.err && t.errCode == 8) = true ∧
    nextIs (step { State.reset with events := [.regWrite .word cmdOffset 0] }) (fun t => t.err && t.errCode == 2) = true ∧
    nextIs (step { inFlightState with events := [.regWrite .word cmdOffset 0] }) (fun t => t.ovr) = true := by decide

/-- DONE and ERR fall: by a STATUS write, at acceptance and at reset; and an IDLE engine with DONE, or with ERR, whose event comes. -/
theorem witness_PhaseChangesOnlyByRule_fall :
    nextIs (step { srState with done := true, events := [.regWrite .word 0x04 2] }) (fun t => !t.done) = true ∧
    nextIs (step { srState with err := true, errCode := 8, events := [.regWrite .word 0x04 4] }) (fun t => !t.err) = true ∧
    nextIs (step { srState with done := true, events := [.regWrite .word cmdOffset 5] }) (fun t => !t.done) = true ∧
    nextIs (step { srState with err := true, errCode := 8, events := [.regWrite .word cmdOffset 0] }) (fun t => !t.err) = true ∧
    nextIs (step { srState with done := true, events := [.reset] }) (fun t => !t.done) = true ∧
    nextIs (step { srState with err := true, errCode := 8, events := [.reset] }) (fun t => !t.err) = true ∧
    nextIs (step { srState with done := true, events := [.engine, .reset] })
      (fun t => t == { srState with done := true, events := [.reset] }) = true ∧
    nextIs (step { srState with err := true, errCode := 8, events := [] })
      (fun t => t == { srState with err := true, errCode := 8 }) = true := by decide

/-- A CMD write, the end of a command, another agent's store, a fence and a drain, each changing memory. -/
theorem witness_MemoryChangesOnlyByRule :
    nextIs (step { unitState pointMem 16 0 0 0xB03 with events := [.regWrite .word cmdOffset 0] })
      (fun t => t.mem != pointMem) = true ∧
    nextIs (step { inFlightState with events := [.engine] }) (fun t => t.mem != pointMem) = true ∧
    nextIs (step { inFlightState with events := [.memStore .byte 5 1] }) (fun t => t.mem != pointMem) = true ∧
    nextIs (step { inFlightState with events := [.otherStore .byte 5 1] }) (fun t => t.mem != pointMem) = true ∧
    nextIs (step { inFlightState with events := [.memFence], posted := [(5, 1)] })
      (fun t => t.mem != pointMem) = true ∧
    nextIs (step { inFlightState with events := [.memDrain], posted := [(5, 1)] })
      (fun t => t.mem != pointMem) = true := by decide

/-- The first and last registers of the table that are neither STATUS nor CMD. -/
theorem witness_SnapshotIsolatesCommand :
    inFlightState.phase = .busy ∧ regAt 0x00 = some .id ∧ regAt 0x54 = some .kinfo ∧
    ∃ u, step { inFlightState with events := [.engine] } = .next u := ⟨by decide, by decide, by decide, _, rfl⟩

/-- The clauses on values: four bytes that wrap at the top of the address space; a stale byte at both ends of the range that is
invalidated; a byte that is not stale. -/
theorem witness_HostStoreThenLoad :
    srState.phase = .idle ∧ srState.posted = [] ∧ srState.mem.wf ∧
    ({ srState with events := [.memStore .word 0xFFFFFFFE 1, .memLoad .word 0xFFFFFFFE] } : State).events =
      .memStore .word 0xFFFFFFFE 1 :: .memLoad .word 0xFFFFFFFE :: [] ∧
    nextIs (step { srState with stale := [0x1033], events := [.memInvalidate 0x1033 0x1033, .memLoad .byte 0x1033] })
      (fun t => t.stale == []) = true ∧ (0x1033 : Word) ∉ srState.stale := ⟨rfl, rfl, by decide, rfl, by decide, by decide⟩

/-- The clauses on the frame, with a command in flight: each of the four events. -/
theorem witness_HostStoreThenLoad_frame :
    (∀ e ∈ [Event.memLoad .word 0xFFFFFFFE, .memInvalidate 0 0xFFFFFFFF],
      nextIs (step { inFlightState with events := [e] }) (fun t => t.mem == inFlightState.mem && t.regs == inFlightState.regs) =
        true) ∧
    ∀ e ∈ [Event.memStore .byte 0xFFFFFFFF 7, .otherStore .byte 0xFFFFFFFF 7],
      nextIs (step { inFlightState with events := [e] })
        (fun t => t.mem.read8 0xFFFFFFFF == 7 && t.regs == inFlightState.regs) = true := by decide

/-- A CMP command in flight. -/
def inFlightCmp : State := start .cmpX (accept 9 compoundState)

/-- Both clauses. -/
theorem witness_EarlyReadSeesOldOrNew :
    inFlightCmp.inFlight = some .cmpX ∧ inFlightCmp.posted = [] ∧ check inFlightCmp.snap = none ∧
    Instr.cmpX.mode = .cmp ∧ 0x3000 ∈ cbufElements inFlightCmp.snap := by decide

/-- A store at an address that nothing is posted for, and at one that is; a fence and a drain of two posted bytes to one
address. -/
theorem witness_PostedStoresBecomeVisible :
    nextIs (step { srState with events := [.memPost .byte 0x1033 7, .memLoad .byte 0x1033] })
      (fun t => t.posted == [(0x1033, 7)] && t.mem == rampMem) = true ∧
    nextIs (step { srState with posted := [(0x1033, 7), (0x1033, 9)], events := [.memFence] })
      (fun t => t.posted == [] && t.mem.read8 0x1033 == 9) = true ∧
    nextIs (step { srState with posted := [(0x1033, 7), (0x1033, 9)], events := [.memDrain] })
      (fun t => t.posted == [(0x1033, 9)] && t.mem.read8 0x1033 == 7) = true := by decide

/-- A block whose destination is its source. -/
def inPlaceState : State := { srState with regs := { srState.regs with dstBase := 0x1033 } }

theorem witness_OverlapStillCompletes :
    Runs .srX inPlaceState ∧ BusAdmits .srX inPlaceState ∧ inPlaceState.mem.wf ∧
    overlaps .srX (accepted .srX inPlaceState) = true :=
  ⟨⟨rfl, rfl, by simp only [Legal, Violates, LegalRoundSr, LegalRoundCompound]; decide⟩,
    busAdmits_of_no_holes _ _ rfl, rampMem_wf, by decide⟩

/-- A posted store to the first and to the last byte of the reference window, and a device region that holds the last byte of the
window or the destination. -/
theorem witness_UnseenInputsStillComplete :
    (∀ a ∈ [0x1030, 0x1037],
      Runs .srX { srState with posted := [(BitVec.ofNat 32 a, 7)] } ∧
      BusAdmits .srX { srState with posted := [(BitVec.ofNat 32 a, 7)] } ∧
      ({ srState with posted := [(BitVec.ofNat 32 a, 7)] } : State).mem.wf ∧
      awaitsPosted ({ srState with posted := [(BitVec.ofNat 32 a, 7)] } : State).posted .srX
        (accepted .srX { srState with posted := [(BitVec.ofNat 32 a, 7)] }) = true) ∧
    ∀ a ∈ [0x1037, 0x2000],
      Runs .srX { srState with deviceRegions := [⟨BitVec.ofNat 32 a, BitVec.ofNat 32 a⟩] } ∧
      BusAdmits .srX { srState with deviceRegions := [⟨BitVec.ofNat 32 a, BitVec.ofNat 32 a⟩] } ∧
      ({ srState with deviceRegions := [⟨BitVec.ofNat 32 a, BitVec.ofNat 32 a⟩] } : State).mem.wf ∧
      touchesDevice ({ srState with deviceRegions := [⟨BitVec.ofNat 32 a, BitVec.ofNat 32 a⟩] } : State).deviceRegions .srX
        (accepted .srX { srState with deviceRegions := [⟨BitVec.ofNat 32 a, BitVec.ofNat 32 a⟩] }) = true := by
  have h1 : ∀ a ∈ [0x1030, 0x1037], awaitsPosted [(BitVec.ofNat 32 a, 7)] .srX (accepted .srX srState) = true := by decide
  have h2 : ∀ a ∈ [0x1037, 0x2000],
      touchesDevice [⟨BitVec.ofNat 32 a, BitVec.ofNat 32 a⟩] .srX (accepted .srX srState) = true := by decide
  exact ⟨fun a ha => ⟨⟨rfl, rfl, legal_sr _ (by decide)⟩, busAdmits_of_no_holes _ _ rfl, rampMem_wf, h1 a ha⟩,
    fun a ha => ⟨⟨rfl, rfl, legal_sr _ (by decide)⟩, busAdmits_of_no_holes _ _ rfl, rampMem_wf, h2 a ha⟩⟩

theorem inFlightCmp_inFlight (es : List Event) : ({ inFlightCmp with events := es } : State).inFlight = some .cmpX := by
  have h : inFlightCmp.phase = .busy ∧ decode inFlightCmp.snap.cmd = .ok .cmpX := by decide
  simp only [State.inFlight, h]

/-- No access of the command in flight is refused. -/
theorem inFlightCmp_admitted (es : List Event) : busRefuses .cmpX { inFlightCmp with events := es } = false := by
  simp [busRefuses, refusesSample, refusesCbufRead, refusesWrite, busOk, inFlightCmp, start, accept, clearForAcceptance,
    compoundState, unitState, State.reset]

/-- The first and the last byte of the read footprint, by the host, visible and posted, and by another agent. -/
theorem witness_ChangedInputsStillComplete : ∀ a ∈ [0x1030, 0x1037],
    ∀ e ∈ [Event.memStore .byte (BitVec.ofNat 32 a) 7, .otherStore .byte (BitVec.ofNat 32 a) 7,
      .memPost .byte (BitVec.ofNat 32 a) 7],
      ({ inFlightCmp with events := [e, .engine] } : State).inFlight = some .cmpX ∧
      ({ inFlightCmp with events := [e, .engine] } : State).mem.wf ∧
      ({ inFlightCmp with events := [e, .engine] } : State).err = false ∧
      busRefuses .cmpX { inFlightCmp with events := [e, .engine] } = false ∧
      BitVec.ofNat 32 a ∈ readFootprint .cmpX ({ inFlightCmp with events := [e, .engine] } : State).snap := by
  have h : ∀ a ∈ [0x1030, 0x1037], BitVec.ofNat 32 a ∈ readFootprint .cmpX inFlightCmp.snap := by decide
  exact fun a ha e _ => ⟨inFlightCmp_inFlight _, rampMem_wf, rfl, inFlightCmp_admitted _, h a ha⟩

/-- Both bytes of the CBUF element, by the host, visible and posted, and by another agent; with each, the other byte of the element is its mate. A block
of 8-bit samples has bytes without one: see `witness_ConcurrentWriter_other_element`. -/
theorem witness_ConcurrentWriterLeavesElementOpen : ∀ a ∈ [0x3000, 0x3001],
    ∀ e ∈ [Event.memStore .byte (BitVec.ofNat 32 a) 7, .otherStore .byte (BitVec.ofNat 32 a) 7,
      .memPost .byte (BitVec.ofNat 32 a) 7],
      ({ inFlightCmp with events := [e, .engine] } : State).inFlight = some .cmpX ∧
      ({ inFlightCmp with events := [e, .engine] } : State).mem.wf ∧
      ({ inFlightCmp with events := [e, .engine] } : State).err = false ∧
      busRefuses .cmpX { inFlightCmp with events := [e, .engine] } = false ∧
      BitVec.ofNat 32 a ∈ writeFootprint .cmpX ({ inFlightCmp with events := [e, .engine] } : State).snap ∧
      BitVec.ofNat 32 a ∉ readFootprint .cmpX ({ inFlightCmp with events := [e, .engine] } : State).snap := by
  have h1 : ∀ a ∈ [0x3000, 0x3001], BitVec.ofNat 32 a ∈ writeFootprint .cmpX inFlightCmp.snap := by decide
  have h2 : ∀ a ∈ [0x3000, 0x3001], BitVec.ofNat 32 a ∉ readFootprint .cmpX inFlightCmp.snap := by decide
  exact fun a ha e _ => ⟨inFlightCmp_inFlight _, rampMem_wf, rfl, inFlightCmp_admitted _, h1 a ha, h2 a ha⟩

/-- A CMP command with a block of two columns in flight: the last clause has the second element to speak of. -/
theorem witness_ConcurrentWriter_other_element : ∀ a ∈ [0x3002, 0x3003],
    BitVec.ofNat 32 a ∈ writeFootprint .cmpX (start .cmpX (accept 9 { compoundState with
      regs := { compoundState.regs with blkSize := 0x10002, cbufStride := 2 } })).snap ∧
    BitVec.ofNat 32 a ≠ 0x3000 ∧ BitVec.ofNat 32 a ≠ elementMate Instr.cmpX.mode 0x3000 := by decide

/-- On a coherent platform a host store is visible at once, on another it is posted; a narrow store into the block is one to its
offset (20_memory.md R84, R80). -/
theorem test_hostStoreEvent :
    hostStoreEvent .byte (Config.mmioBase + 0x100) 7 =
      if Config.platformCoherent then .memStore .byte (Config.mmioBase + 0x100) 7
      else .memPost .byte (Config.mmioBase + 0x100) 7 := by
  have h : mmioOffset .byte (Config.mmioBase + 0x100) = none := by
    simp [mmioOffset, AccessSize.bytes, BitVec.add_comm Config.mmioBase]
  rw [hostStoreEvent, h]

/-- A posted store to the first byte of the read footprint of the command in flight taints it, and one to its destination races
(70_reset_and_hazards.md R276, R278); one elsewhere does neither. -/
theorem test_memPost_in_flight :
    nextIs (step { inFlightCmp with events := [.memPost .byte 0x1030 7] }) (fun t => t.tainted && t.raced == []) = true ∧
    nextIs (step { inFlightCmp with events := [.memPost .byte 0x3001 7] }) (fun t => !t.tainted && t.raced == [0x3001]) = true ∧
    nextIs (step { inFlightCmp with events := [.memPost .byte 0x4000 7] }) (fun t => !t.tainted && t.raced == []) = true := by
  decide

/-- The host's posted store outlives its invalidation (log 31). -/
theorem test_memInvalidate_keeps_posted :
    nextIs (step { srState with posted := [(0x2000, 7)], events := [.memInvalidate 0x2000 0x2000] })
      (fun t => t.posted == [(0x2000, 7)]) = true := by decide

/-- A byte that the host has not invalidated since the engine wrote it is open on a platform that is not coherent (20_memory.md
R83). -/
theorem test_stale_byte :
    loadByte { srState with stale := [0x2000] } 0x2000 =
      if Config.platformCoherent then 0 else Config.staleByte srState.draws 0x2000 := by
  cases h : Config.platformCoherent <;>
    (simp [loadByte, postedAt, inFlightWrites, State.inFlight, srState, unitState, State.reset, h]; try decide)

end Sys2Proof.Tests
end

section
/-! The rounding and saturation primitives of 00_scope.md R11 and R12: one equation per case, for every integer. -/

namespace Sys2Proof.Machine

/-- The rounding bias `(1 << n) >> 1` is half of the divisor (00_scope.md R11). -/
theorem asr_shl_one_one {n : Nat} (hn : 1 ≤ n) : asr (shl 1 n) 1 = 2 ^ (n - 1) := by
  obtain ⟨k, rfl⟩ := Nat.exists_eq_add_of_le' hn
  simp [asr, shl, pow_succ]

/-- With no shift the bias `(1 << 0) >> 1` is 0. -/
@[simp] theorem roundShift_zero (v : Int) : roundShift v 0 = v := by
  simp [roundShift, asr]

theorem roundShift_of_one_le (v : Int) {n : Nat} (hn : 1 ≤ n) :
    roundShift v n = (v + 2 ^ (n - 1)) / 2 ^ n := by
  rw [roundShift, asr_shl_one_one hn, asr]

theorem clip8_of_neg {v : Int} (h : v < 0) : clip8 v = 0 := if_pos h

theorem clip8_of_gt {v : Int} (h : 255 < v) : clip8 v = 255 := by
  rw [clip8, if_neg (by omega), if_pos h]

theorem clip8_of_range {v : Int} (h0 : 0 ≤ v) (h255 : v ≤ 255) : clip8 v = v := by
  rw [clip8, if_neg (by omega), if_neg (by omega)]

/-- Settles O27: ROUND by its cases `n = 0` and `n ≥ 1`, CLIP8 by its three ranges. -/
theorem roundingPrimitives : Obligations.RoundingPrimitives :=
  ⟨roundShift_zero, fun v _ hn => roundShift_of_one_le v hn,
    fun _ => ⟨clip8_of_neg, clip8_of_gt, clip8_of_range⟩⟩

end Sys2Proof.Machine
end

section
/-! Writes to a listed register as a step, what a STATUS write clears (10_state.md R35), and what the registers read after reset
(10_state.md R58). -/

namespace Sys2Proof.Machine

/-! ## Writes to STATUS -/

/-- The step of a host write to a listed register other than CMD is its register's write. -/
theorem step_regWrite {s : State} {off : BitVec 8} {v : Word} {es : List Event} {r : Reg}
    (h : s.events = .regWrite .word off v :: es) (hoff : regAt off = some r) (hr : r ≠ .cmd) :
    step s = .next (writeReg r v { s with events := es }) := by
  rw [step_of_cons s _ es h]
  exact hostWrite_reg off v _ r hoff hr

theorem regAt_statusOffset : regAt 0x04 = some .status := by decide

/-- Each flag is cleared by its own bit of the written word, in the form of 10_state.md R35. -/
theorem writeStatus_eq_clear_if (v : Word) (s : State) :
    writeStatus v s = { s with
      done := if v.getLsbD 1 then false else s.done
      err := if v.getLsbD 2 then false else s.err
      errCode := if v.getLsbD 2 then 0 else s.errCode
      ovr := if v.getLsbD 3 then false else s.ovr } := by
  have flag_clear : ∀ flag bit : Bool, (flag && !bit) = if bit then false else flag := by decide
  simp only [writeStatus, flag_clear]

/-- Settles O43: offset 4 lists STATUS, so the step is `writeStatus`, which clears by ones. -/
theorem statusWriteClears : Obligations.StatusWriteClears := fun s v es h => by
  rw [step_regWrite h regAt_statusOffset (by decide)]
  exact congrArg Host.Outcome.next (writeStatus_eq_clear_if v { s with events := es })

/-! ## Reset -/

/-- KSEL is 0 after reset, which selects the REGULAR kernel of phase 0 (10_state.md R58). -/
theorem readoutKernel_reset :
    readoutKernel State.reset.ksel = { k0 := 0, k1 := 0, k2 := 0, k3 := 128, k4 := 0, k5 := 0, k6 := 0, k7 := 0 } := by
  decide

theorem statusWord_reset : statusWord State.reset = 0 := by decide

/-- The only registers that do not read 0 after reset are the constant ID and what the kernel readout shows of KSEL = 0. -/
theorem readReg_reset_eq_zero (r : Reg) (h : r ∉ [Reg.id, .ktap23, .kinfo]) : readReg r State.reset = 0 := by
  cases r with
  | id | ktap23 | kinfo => simp at h
  | status => exact statusWord_reset
  | ktap01 | ktap45 | ktap67 =>
    rw [readReg, readoutKernel_reset]
    decide
  | _ => rfl

theorem readReg_ktap23_reset : readReg .ktap23 State.reset = 0x00800000 := by
  rw [readReg, readoutKernel_reset]
  decide

/-- Style 0 is REGULAR, of class 8. -/
theorem readReg_kinfo_reset : readReg .kinfo State.reset = 8 := by decide

theorem irq_of_no_flags {s : State} (hd : s.done = false) (he : s.err = false) : irq s = false := by
  simp [irq, hd, he]

/-- Settles O45: ID, KTAP23 and KINFO by their values, the other registers of the table by `readReg_reset_eq_zero`. -/
theorem resetValues : Obligations.ResetValues := by
  refine ⟨rfl, fun r hr => readReg_reset_eq_zero r ?_, readReg_ktap23_reset, readReg_kinfo_reset, rfl, irq_of_no_flags rfl rfl⟩
  revert r
  decide

end Sys2Proof.Machine
end

section
/-! The decoder and the encoder as inverse maps between the legal words and the twenty commands (30_encoding.md R101 to R105), and
what a write of any other word to CMD does (60_exceptions.md R245). -/

namespace Sys2Proof

/-! ## Words and their fields -/

/-- The five fields cover the word (30_encoding.md R101). -/
theorem fieldsOf_injective : Function.Injective fieldsOf := by
  intro v w h
  simp only [fieldsOf, CommandFields.mk.injEq] at h
  obtain ⟨hkind, hcmpd, havg, hjnt, hreserved⟩ := h
  refine BitVec.eq_of_getLsbD_eq fun n hn => ?_
  rcases Nat.lt_or_ge n 6 with hlow | hhigh
  · rcases Nat.lt_or_ge n 3 with hk | hflag
    · simpa [BitVec.getLsbD_extractLsb', hk] using congrArg (·.getLsbD n) hkind
    · obtain rfl | rfl | rfl : n = 3 ∨ n = 4 ∨ n = 5 := by omega
      · exact hcmpd
      · exact havg
      · exact hjnt
  · have hbit : n - 6 < 26 := by omega
    simpa [BitVec.getLsbD_extractLsb', hbit, Nat.add_sub_cancel' hhigh] using congrArg (·.getLsbD (n - 6)) hreserved

/-- A KIND field selects a kind exactly when it holds that kind's value (30_encoding.md R101). -/
theorem kindOf_eq_some_iff (b : BitVec 3) (k : Kind) : kindOf b = some k ↔ b = k.code.setWidth 3 := by
  revert b
  cases k <;> decide

/-- CMPD, AVG and JNT select a mode exactly when they are that mode's bits (30_encoding.md R103). -/
theorem modeOf_eq_some_iff (cmpd avg jnt : Bool) (m : Mode) :
    modeOf cmpd avg jnt = some m ↔ (cmpd, avg, jnt) = m.bits := by
  cases m <;> revert cmpd avg jnt <;> decide

/-- The legal fields have no reserved bit set (30_encoding.md R105). -/
theorem CommandFields.reserved_of_wellFormed {f : CommandFields} (h : f.wellFormed = true) : f.reserved = 0 := by
  by_contra hne
  rw [CommandFields.wellFormed, CommandFields.problem, if_pos hne] at h
  cases h

/-! ## Commands, modes and kinds -/

@[simp] theorem instrOf_mode_kind (i : Instr) : instrOf i.mode i.kind = i := by
  cases i <;> rfl

@[simp] theorem mode_instrOf (m : Mode) (k : Kind) : (instrOf m k).mode = m := by
  cases m <;> cases k <;> rfl

@[simp] theorem kind_instrOf (m : Mode) (k : Kind) : (instrOf m k).kind = k := by
  cases m <;> cases k <;> rfl

/-! ## The decoder -/

/-- All that a decoded word can be: no reserved bit is set, KIND is the command's kind and the mode bits are its mode. -/
theorem decode_eq_ok_iff (w : Word) (i : Instr) :
    decode w = .ok i ↔
      (fieldsOf w).reserved = 0 ∧ (fieldsOf w).kind = i.kind.code.setWidth 3 ∧
        ((fieldsOf w).cmpd, (fieldsOf w).avg, (fieldsOf w).jnt) = i.mode.bits := by
  rw [← kindOf_eq_some_iff, ← modeOf_eq_some_iff, decode]
  constructor
  · intro h
    split at h
    · cases h
    next hreserved =>
      split at h
      · cases h
      next k hkind =>
        split at h
        · cases h
        next m hmode =>
          cases h
          exact ⟨not_not.1 hreserved, by simpa using hkind, by simpa using hmode⟩
  · rintro ⟨hreserved, hkind, hmode⟩
    simp [hreserved, hkind, hmode]

/-- The fields of every encoded command, by the law of each command. -/
theorem encodedFields (i : Instr) : Laws.EncodedFields.Statement i := by
  cases i with
  | srCopy => exact Laws.EncodedFields.srCopy
  | srX => exact Laws.EncodedFields.srX
  | srY => exact Laws.EncodedFields.srY
  | srTwoD => exact Laws.EncodedFields.srTwoD
  | srAuto => exact Laws.EncodedFields.srAuto
  | cmpCopy => exact Laws.EncodedFields.cmpCopy
  | cmpX => exact Laws.EncodedFields.cmpX
  | cmpY => exact Laws.EncodedFields.cmpY
  | cmpTwoD => exact Laws.EncodedFields.cmpTwoD
  | cmpAuto => exact Laws.EncodedFields.cmpAuto
  | avgCopy => exact Laws.EncodedFields.avgCopy
  | avgX => exact Laws.EncodedFields.avgX
  | avgY => exact Laws.EncodedFields.avgY
  | avgTwoD => exact Laws.EncodedFields.avgTwoD
  | avgAuto => exact Laws.EncodedFields.avgAuto
  | jntCopy => exact Laws.EncodedFields.jntCopy
  | jntX => exact Laws.EncodedFields.jntX
  | jntY => exact Laws.EncodedFields.jntY
  | jntTwoD => exact Laws.EncodedFields.jntTwoD
  | jntAuto => exact Laws.EncodedFields.jntAuto

theorem decode_encode (i : Instr) : decode (encode i) = .ok i := by
  obtain ⟨hwf, hkind, hmode⟩ := encodedFields i
  exact (decode_eq_ok_iff _ i).2
    ⟨CommandFields.reserved_of_wellFormed hwf, (kindOf_eq_some_iff _ _).1 hkind, hmode⟩

/-- Two words that decode to one command have the same fields, so they are one word. -/
theorem decode_ok_injective {v w : Word} {i : Instr} (hv : decode v = .ok i) (hw : decode w = .ok i) : v = w := by
  obtain ⟨hreserved, hkind, hmode⟩ := (decode_eq_ok_iff v i).1 hv
  obtain ⟨hreserved', hkind', hmode'⟩ := (decode_eq_ok_iff w i).1 hw
  obtain ⟨hcmpd, havg, hjnt⟩ : _ ∧ _ ∧ _ := by simpa using hmode.trans hmode'.symm
  refine fieldsOf_injective ?_
  rw [CommandFields.mk.injEq]
  exact ⟨hkind.trans hkind'.symm, hcmpd, havg, hjnt, hreserved.trans hreserved'.symm⟩

theorem decode_eq_ok_iff_eq_encode (w : Word) (i : Instr) : decode w = .ok i ↔ w = encode i :=
  ⟨fun h => decode_ok_injective h (decode_encode i), fun h => h ▸ decode_encode i⟩

end Sys2Proof

namespace Sys2Proof.Safety

open Sys2Proof.Machine

/-! ## The opcode map -/

/-- The encoder's formula gives the `enc` column of the opcode map (30_encoding.md R104). -/
theorem encode_eq_encWord (i : Instr) : encode i = encWord i := by
  cases i <;> decide

theorem decode_eq_ok_iff_eq_encWord (w : Word) (i : Instr) : decode w = .ok i ↔ w = encWord i := by
  rw [decode_eq_ok_iff_eq_encode, encode_eq_encWord]

/-- The rows of the opcode map (30_encoding.md R104): every mode with every kind. -/
def opcodeMap : List Instr :=
  [Mode.sr, .cmp, .avg, .jnt].flatMap fun m => [Kind.copy, .x, .y, .twoD, .auto].map (instrOf m)

theorem mem_opcodeMap (i : Instr) : i ∈ opcodeMap := by
  have hmode : i.mode ∈ [Mode.sr, .cmp, .avg, .jnt] := by cases i.mode <;> decide
  have hkind : i.kind ∈ [Kind.copy, .x, .y, .twoD, .auto] := by cases i.kind <;> decide
  exact List.mem_flatMap.2 ⟨i.mode, hmode, List.mem_map.2 ⟨i.kind, hkind, instrOf_mode_kind i⟩⟩

/-- The words of the opcode map are the words that decode. -/
theorem mem_map_encWord_opcodeMap_iff (w : Word) : w ∈ opcodeMap.map encWord ↔ ∃ i, decode w = .ok i := by
  simp only [List.mem_map, mem_opcodeMap, true_and, decode_eq_ok_iff_eq_encWord, eq_comm (a := w)]

/-! ## A write of an illegal word -/

/-- A word that no row of the opcode map holds is illegal on one of the grounds of 30_encoding.md R105. -/
theorem exists_decode_eq_error {w : Word} (h : ∀ i, w ≠ encWord i) : ∃ x, decode w = .error x := by
  cases hd : decode w with
  | error x => exact ⟨x, rfl⟩
  | ok i => exact absurd ((decode_eq_ok_iff_eq_encWord w i).1 hd) (h i)

/-- Issuing an illegal word to an IDLE engine is acceptance and ILLEGAL_CMD (60_exceptions.md R245). -/
theorem issue_of_illegal {v : Word} {s : State} {x : FieldProblem} (hp : s.phase = .idle) (hd : decode v = .error x) :
    issue v s = configError .illegalCmd (accept v s) := by
  simp only [issue, hp, hd]

/-- Acceptance and a configuration error, field by field. -/
theorem configError_accept (e : ErrCode) (v : Word) (s : State) :
    configError e (accept v s) = { acceptedState v s with err := true, errCode := e.code } := rfl

/-- The step of a host write of an illegal word to CMD of an IDLE engine. -/
theorem step_of_illegal_word {s : State} {w : Word} {es : List Event} {x : FieldProblem}
    (hd : decode w = .error x) (hp : s.phase = .idle) (he : s.events = .regWrite .word cmdOffset w :: es) :
    step s = .next { acceptedState w s with err := true, errCode := 1, events := es } :=
  calc step s
    _ = hostWrite .word cmdOffset w { s with events := es } := step_of_cons s _ es he
    _ = .next (issue w { s with events := es }) := hostWrite_cmd_illegal w _ x hd
    _ = .next (configError .illegalCmd (accept w { s with events := es })) :=
      congrArg Host.Outcome.next (issue_of_illegal hp hd)
    _ = .next { acceptedState w s with err := true, errCode := 1, events := es } :=
      congrArg Host.Outcome.next (configError_accept .illegalCmd w { s with events := es })

/-- Settles O2: the decoder inverts the encoder because a word is determined by its fields; the legal words are the opcode map's; any
other word ends at acceptance. -/
theorem legalWordsAreExactlyTheTwenty : Obligations.LegalWordsAreExactlyTheTwenty := by
  refine ⟨fun i _ => decode_encode i, fun w i => (decode_eq_ok_iff_eq_encWord w i).1,
    ⟨opcodeMap.map encWord, by decide, by decide, mem_map_encWord_opcodeMap_iff⟩, fun s w es hw hp he => ?_⟩
  obtain ⟨x, hd⟩ := exists_decode_eq_error hw
  exact step_of_illegal_word hd hp he

end Sys2Proof.Safety
end

section
/-! The kernel ROM of 40_filter_bank.md R131 to R137: what holds of every row of a table holds of every kernel, and the weight
of a kernel's negative taps bounds its tap sums. -/

namespace Sys2Proof.Machine

/-! ## Kernels -/

theorem Kernel.tap_mem_taps (K : Kernel) {k : Nat} (hk : k < 8) : K.tap k ∈ K.taps := by
  interval_cases k <;> simp [Kernel.tap, Kernel.taps]

/-- The kernel read backwards (40_filter_bank.md R137 (d)). -/
def Kernel.mirror (K : Kernel) : Kernel := ⟨K.k7, K.k6, K.k5, K.k4, K.k3, K.k2, K.k1, K.k0⟩

theorem Kernel.tap_mirror (K : Kernel) {k : Nat} (hk : k < 8) : K.mirror.tap k = K.tap (7 - k) := by
  interval_cases k <;> rfl

/-- The sum of the negative taps. -/
def Kernel.negWeight (K : Kernel) : Int := (K.taps.map (min · 0)).sum

/-- The sum of the positive taps. -/
def Kernel.posWeight (K : Kernel) : Int := (K.taps.map (max · 0)).sum

theorem Kernel.posWeight_add_negWeight (K : Kernel) : K.posWeight + K.negWeight = K.taps.sum := by
  rw [posWeight, negWeight, ← List.sum_map_add]
  simp [max_add_min]

theorem mul_sample_bounds (t : Int) {y : Int} (hy : 0 ≤ y ∧ y ≤ 255) :
    255 * min t 0 ≤ t * y ∧ t * y ≤ 255 * max t 0 := by
  obtain ⟨h0, h255⟩ := hy
  rcases le_total t 0 with ht | ht
  · rw [min_eq_left ht, max_eq_right ht]
    exact ⟨by nlinarith, by nlinarith⟩
  · rw [min_eq_right ht, max_eq_left ht]
    exact ⟨by nlinarith, by nlinarith⟩

/-- A tap sum is least with 255 under each negative tap and 0 elsewhere, and greatest the other way round. -/
theorem tapSum_bounds (K : Kernel) {x : Nat → Int} (hx : ∀ k, 0 ≤ x k ∧ x k ≤ 255) :
    255 * K.negWeight ≤ tapSum K x ∧ tapSum K x ≤ 255 * K.posWeight := by
  obtain ⟨lo0, hi0⟩ := mul_sample_bounds K.k0 (hx 0)
  obtain ⟨lo1, hi1⟩ := mul_sample_bounds K.k1 (hx 1)
  obtain ⟨lo2, hi2⟩ := mul_sample_bounds K.k2 (hx 2)
  obtain ⟨lo3, hi3⟩ := mul_sample_bounds K.k3 (hx 3)
  obtain ⟨lo4, hi4⟩ := mul_sample_bounds K.k4 (hx 4)
  obtain ⟨lo5, hi5⟩ := mul_sample_bounds K.k5 (hx 5)
  obtain ⟨lo6, hi6⟩ := mul_sample_bounds K.k6 (hx 6)
  obtain ⟨lo7, hi7⟩ := mul_sample_bounds K.k7 (hx 7)
  simp only [Kernel.negWeight, Kernel.posWeight, Kernel.taps, tapSum, List.map_cons, List.map_nil, List.sum_cons,
    List.sum_nil]
  constructor <;> linarith

/-! ## The ROM -/

theorem length_romTable (st : Style) : (romTable st).length = 16 := by
  cases st <;> rfl

/-- A 4-bit phase never leaves its table. -/
theorem kernelOf_mem_romTable (st : Style) (ph : BitVec 4) : kernelOf st ph ∈ romTable st := by
  have hph : ph.toNat < (romTable st).length := by rw [length_romTable]; exact ph.isLt
  rw [kernelOf, List.getD_eq_getElem _ _ hph]
  exact List.getElem_mem hph

theorem even_of_mem_romTable (st : Style) : ∀ K ∈ romTable st, ∀ t ∈ K.taps, t % 2 = 0 := by
  cases st <;> decide

theorem sum_taps_of_mem_romTable (st : Style) : ∀ K ∈ romTable st, K.taps.sum = 128 := by
  cases st <;> decide

theorem range_of_mem_romTable (st : Style) : ∀ K ∈ romTable st, ∀ t ∈ K.taps, -24 ≤ t ∧ t ≤ 128 := by
  cases st <;> decide

/-- The least weight, -56, is that of SHARP at phase 8. -/
theorem negWeight_of_mem_romTable (st : Style) : ∀ K ∈ romTable st, -56 ≤ K.negWeight := by
  cases st <;> decide

theorem kernelOf_tap_even (st : Style) (ph : BitVec 4) {k : Nat} (hk : k < 8) : (kernelOf st ph).tap k % 2 = 0 :=
  even_of_mem_romTable st _ (kernelOf_mem_romTable st ph) _ (Kernel.tap_mem_taps _ hk)

theorem kernelOf_sum_taps (st : Style) (ph : BitVec 4) : (kernelOf st ph).taps.sum = 128 :=
  sum_taps_of_mem_romTable st _ (kernelOf_mem_romTable st ph)

theorem kernelOf_tap_range (st : Style) (ph : BitVec 4) {k : Nat} (hk : k < 8) :
    -24 ≤ (kernelOf st ph).tap k ∧ (kernelOf st ph).tap k ≤ 128 :=
  range_of_mem_romTable st _ (kernelOf_mem_romTable st ph) _ (Kernel.tap_mem_taps _ hk)

theorem kernelOf_phase_zero (st : Style) : kernelOf st 0 = ⟨0, 0, 0, 128, 0, 0, 0, 0⟩ := by
  cases st <;> rfl

/-- BILINEAR mirrors too: it has taps at the indices 3 and 4 only, and these change places. -/
theorem kernelOf_eq_mirror (st : Style) {ph : BitVec 4} (hph : ph ≠ 0) :
    kernelOf st ph = (kernelOf st (16 - ph)).mirror := by
  revert ph
  cases st <;> decide

theorem kernelOf_tap_mirror (st : Style) {ph : BitVec 4} (hph : ph ≠ 0) {k : Nat} (hk : k < 8) :
    (kernelOf st ph).tap k = (kernelOf st (16 - ph)).tap (7 - k) := by
  rw [kernelOf_eq_mirror st hph, Kernel.tap_mirror _ hk]

/-- As the taps sum to 128, a negative weight of at least -56 leaves a positive one of at most 184. -/
theorem tapSum_kernelOf_range (st : Style) (ph : BitVec 4) {x : Nat → Int} (hx : ∀ k, 0 ≤ x k ∧ x k ≤ 255) :
    -14280 ≤ tapSum (kernelOf st ph) x ∧ tapSum (kernelOf st ph) x ≤ 46920 := by
  obtain ⟨hlo, hhi⟩ := tapSum_bounds (kernelOf st ph) hx
  have hneg := negWeight_of_mem_romTable st _ (kernelOf_mem_romTable st ph)
  have hsum := (kernelOf st ph).posWeight_add_negWeight
  rw [kernelOf_sum_taps] at hsum
  omega

/-- Settles O24: parity, sum, range and negative weight by the rows of each table, the halved taps and the tap sums from these. -/
theorem kernelRomProperties : Obligations.KernelRomProperties := by
  refine ⟨fun st ph _ hk => kernelOf_tap_even st ph hk, kernelOf_sum_taps, kernelOf_phase_zero,
    fun st _ _ hph _ hk => kernelOf_tap_mirror st hph hk, fun _ hph => kernelOf_tap_mirror .bilinear hph (k := 3) (by decide),
    fun st ph k hk => ?_, fun st ph _ hx => tapSum_kernelOf_range st ph hx⟩
  obtain ⟨hlo, hhi⟩ := kernelOf_tap_range st ph hk
  omega

end Sys2Proof.Machine
end

section
/-! The small-block substitution of 40_filter_bank.md R139 and the kernels of a command (R140): one equation per case. -/

namespace Sys2Proof.Machine

theorem effStyle_of_size4_clear (st : Style) (n : Nat) : effStyle st false n = st :=
  if_neg fun h => Bool.false_ne_true h.1

theorem effStyle_of_large (st : Style) (size4 : Bool) {n : Nat} (hn : 4 < n) : effStyle st size4 n = st :=
  if_neg fun h => Nat.not_le_of_lt hn h.2

/-- The substitution goes by the style alone once SIZE4 is set and the dimension small. -/
theorem effStyle_of_small (st : Style) {n : Nat} (hn : n ≤ 4) : effStyle st true n = effStyle st true 4 := by
  simp only [effStyle, hn, le_refl]

/-- The two styles of class 4 and BILINEAR stand for themselves. -/
theorem effStyle_of_not_substituted {st : Style} (hst : st = .bilinear ∨ st = .regular4 ∨ st = .smooth4) (size4 : Bool)
    (n : Nat) : effStyle st size4 n = st := by
  obtain rfl | rfl | rfl := hst <;> exact ite_self _

theorem selectKernel_of_styleOf {style : BitVec 3} {st : Style} (h : styleOf style = some st) (size4 : Bool) (n : Nat)
    (ph : BitVec 4) : selectKernel style size4 n ph = kernelOf (effStyle st size4 n) ph := by
  rw [selectKernel, h]

/-- Settles O25: the substituted styles by their values at a small dimension, each ground for none by its lemma; Kx and Ky are
`selectKernel` of the fields of FILT_X and FILT_Y. -/
theorem smallBlockSubstitution : Obligations.SmallBlockSubstitution := by
  refine ⟨fun st size4 n => ⟨?_, ?_, ?_⟩, fun _ _ h => selectKernel_of_styleOf h _ _ _,
    fun _ _ h => selectKernel_of_styleOf h _ _ _⟩
  · rintro rfl hn (rfl | rfl) <;> exact (effStyle_of_small _ hn).trans (by decide)
  · rintro rfl hn rfl
    exact (effStyle_of_small _ hn).trans (by decide)
  · rintro (rfl | hn | hst)
    · exact effStyle_of_size4_clear st n
    · exact effStyle_of_large st size4 hn
    · exact effStyle_of_not_substituted hst size4 n

end Sys2Proof.Machine
end

section
/-! The readout registers KTAP01 to KTAP67 and KINFO (40_filter_bank.md R143, R144). -/

namespace Sys2Proof.Machine

/-! ## Two taps in a word -/

theorem extractLsb'_append_low {w v : Nat} (x : BitVec w) (y : BitVec v) : (x ++ y).extractLsb' 0 v = y := by
  ext i hi
  simp [BitVec.getLsbD_append, hi]

theorem extractLsb'_append_high {w v : Nat} (x : BitVec w) (y : BitVec v) : (x ++ y).extractLsb' v w = x := by
  ext i hi
  simp [BitVec.getLsbD_append, hi]

theorem tapPair_low (a b : Int) : (tapPair a b).extractLsb' 0 16 = BitVec.ofInt 16 a :=
  extractLsb'_append_low (BitVec.ofInt 16 b) (BitVec.ofInt 16 a)

theorem tapPair_high (a b : Int) : (tapPair a b).extractLsb' 16 16 = BitVec.ofInt 16 b :=
  extractLsb'_append_high (BitVec.ofInt 16 b) (BitVec.ofInt 16 a)

/-! ## What KSEL selects -/

/-- The legal STYLE values with their table and class (40_filter_bank.md R138). -/
def styleRows : List (BitVec 3 × Style × Word) :=
  [(0, .regular, 8), (1, .smooth, 8), (2, .sharp, 8), (3, .bilinear, 2), (4, .regular4, 4), (5, .smooth4, 4)]

theorem styleOf_and_class_of_mem_styleRows :
    ∀ row ∈ styleRows, styleOf row.1 = some row.2.1 ∧ BitVec.ofNat 32 (classOf row.2.1) = row.2.2 := by
  decide

theorem styleOf_of_reserved {n : BitVec 3} (h : n = 6 ∨ n = 7) : styleOf n = none := by
  obtain rfl | rfl := h <;> decide

theorem readoutKernel_of_styleOf {ksel : Word} {st : Style} (h : styleOf (ksel.extractLsb' 8 3) = some st) :
    readoutKernel ksel = kernelOf st (ksel.extractLsb' 0 4) := by
  rw [readoutKernel, h]

theorem readoutKernel_of_styleOf_none {ksel : Word} (h : styleOf (ksel.extractLsb' 8 3) = none) :
    readoutKernel ksel = Kernel.zero := by
  rw [readoutKernel, h]

theorem readoutInfo_of_styleOf {ksel : Word} {st : Style} (h : styleOf (ksel.extractLsb' 8 3) = some st) :
    readoutInfo ksel = BitVec.ofNat 32 (classOf st) := by
  rw [readoutInfo, h]

theorem readoutInfo_of_styleOf_none {ksel : Word} (h : styleOf (ksel.extractLsb' 8 3) = none) : readoutInfo ksel = 0 := by
  rw [readoutInfo, h]

/-! ## The registers -/

/-- The KTAP registers show the selected kernel and nothing else of the state. -/
theorem readReg_ktap_of_readoutKernel {s : State} {K : Kernel} (h : readoutKernel s.ksel = K) :
    readReg .ktap01 s = tapPair (K.tap 0) (K.tap 1) ∧ readReg .ktap23 s = tapPair (K.tap 2) (K.tap 3) ∧
    readReg .ktap45 s = tapPair (K.tap 4) (K.tap 5) ∧ readReg .ktap67 s = tapPair (K.tap 6) (K.tap 7) := by
  subst h
  exact ⟨rfl, rfl, rfl, rfl⟩

theorem readReg_kinfo (s : State) : readReg .kinfo s = readoutInfo s.ksel := rfl

theorem tapPair_zero : tapPair 0 0 = 0 := by decide

/-- A reserved STYLE reads as zeros. -/
theorem readReg_of_reserved_style {s : State} (h : s.ksel.extractLsb' 8 3 = 6 ∨ s.ksel.extractLsb' 8 3 = 7) :
    readReg .ktap01 s = 0 ∧ readReg .ktap23 s = 0 ∧ readReg .ktap45 s = 0 ∧ readReg .ktap67 s = 0 ∧
      readReg .kinfo s = 0 := by
  have hnone := styleOf_of_reserved h
  obtain ⟨h01, h23, h45, h67⟩ := readReg_ktap_of_readoutKernel (readoutKernel_of_styleOf_none hnone)
  exact ⟨h01.trans tapPair_zero, h23.trans tapPair_zero, h45.trans tapPair_zero, h67.trans tapPair_zero,
    readoutInfo_of_styleOf_none hnone⟩

/-- `KSEL = 0x0208` selects SHARP at phase 8, the example of 40_filter_bank.md R143. -/
theorem readoutKernel_sharp_half : readoutKernel 0x0208 = ⟨-4, 12, -24, 80, 80, -24, 12, -4⟩ := by decide

/-- Settles O26: KSEL selects a kernel and a class by its STYLE, and the KTAP registers are pairs of that kernel's taps. -/
theorem kernelReadout : Obligations.KernelReadout := by
  refine ⟨fun n st cls hrow s hn => ?_, fun _ => readReg_of_reserved_style, fun s hs => ?_, fun s hs => ?_⟩
  · obtain ⟨hstyle, hclass⟩ := styleOf_and_class_of_mem_styleRows (n, st, cls) hrow
    subst hn
    obtain ⟨h01, h23, h45, h67⟩ := readReg_ktap_of_readoutKernel (readoutKernel_of_styleOf hstyle)
    have hinfo : readReg .kinfo s = cls := (readoutInfo_of_styleOf hstyle).trans hclass
    simp only [h01, h23, h45, h67, hinfo, tapPair_low, tapPair_high, and_self]
  · have hK : readoutKernel s.ksel = _ := hs ▸ readoutKernel_sharp_half
    obtain ⟨h01, h23, h45, h67⟩ := readReg_ktap_of_readoutKernel hK
    rw [h01, h23, h45, h67, readReg_kinfo, hs]
    decide
  · rw [readReg_kinfo, hs]
    decide

end Sys2Proof.Machine
end

section
/-! The filter sums of 41_datapath.md R161, R162 and R164: a tap sum as a sum over the tap index, its bounds for a window in any
range, and the halved-tap form. -/

namespace Sys2Proof.Machine

/-! ## Sums over the tap index -/

theorem tapSum_eq_sum (K : Kernel) (x : Nat → Int) : tapSum K x = ∑ k ∈ Finset.range 8, K.tap k * x k := by
  simp [Finset.sum_range_succ, tapSum, Kernel.tap]

theorem Kernel.sum_map_taps (K : Kernel) (f : Int → Int) :
    (K.taps.map f).sum = ∑ k ∈ Finset.range 8, f (K.tap k) := by
  simp [Finset.sum_range_succ, Kernel.taps, Kernel.tap, add_assoc]

theorem Kernel.negWeight_nonpos (K : Kernel) : K.negWeight ≤ 0 := by
  rw [negWeight, sum_map_taps]
  exact Finset.sum_nonpos fun _ _ => min_le_right _ _

@[simp] theorem tapSum_zero (x : Nat → Int) : tapSum Kernel.zero x = 0 := by
  simp [tapSum, Kernel.zero]

theorem tapSum_neg (K : Kernel) (x : Nat → Int) : tapSum K (fun k => -x k) = -tapSum K x := by
  simp only [tapSum]
  ring

/-! ## Bounds -/

/-- A product by a tap is least at `lo` for a positive tap and at `hi` for a negative one. -/
theorem mul_lower_of_range (t : Int) {lo hi y : Int} (hy : lo ≤ y ∧ y ≤ hi) : max t 0 * lo + min t 0 * hi ≤ t * y := by
  have hlo := mul_le_mul_of_nonneg_left hy.1 (le_max_right t 0)
  have hhi := mul_le_mul_of_nonpos_left hy.2 (min_le_right t 0)
  calc max t 0 * lo + min t 0 * hi ≤ max t 0 * y + min t 0 * y := add_le_add hlo hhi
    _ = t * y := by rw [← add_mul, max_add_min, add_zero]

theorem tapSum_lower_of_range (K : Kernel) {lo hi : Int} {x : Nat → Int} (hx : ∀ k < 8, lo ≤ x k ∧ x k ≤ hi) :
    K.posWeight * lo + K.negWeight * hi ≤ tapSum K x := by
  rw [tapSum_eq_sum, Kernel.posWeight, Kernel.negWeight, K.sum_map_taps, K.sum_map_taps, Finset.sum_mul, Finset.sum_mul,
    ← Finset.sum_add_distrib]
  exact Finset.sum_le_sum fun k hk => mul_lower_of_range _ (hx k (Finset.mem_range.1 hk))

/-- The worst kernel of the ROM has the negative weight -56, so, as the taps sum to 128, the positive weight 184. -/
theorem tapSum_kernelOf_lower_of_range (st : Style) (ph : BitVec 4) {lo hi : Int} {x : Nat → Int}
    (hx : ∀ k < 8, lo ≤ x k ∧ x k ≤ hi) : 184 * lo - 56 * hi ≤ tapSum (kernelOf st ph) x := by
  have hneg := negWeight_of_mem_romTable st _ (kernelOf_mem_romTable st ph)
  have hsum := (kernelOf st ph).posWeight_add_negWeight
  rw [kernelOf_sum_taps] at hsum
  have hle : lo ≤ hi := (hx 0 (by decide)).1.trans (hx 0 (by decide)).2
  have hspread : 0 ≤ ((kernelOf st ph).negWeight + 56) * (hi - lo) := mul_nonneg (by omega) (by omega)
  have hbound := tapSum_lower_of_range (kernelOf st ph) hx
  rw [show (kernelOf st ph).posWeight = 128 - (kernelOf st ph).negWeight by omega] at hbound
  linarith

/-- The upper bound is the lower one of the negated window. -/
theorem tapSum_kernelOf_range_of_range (st : Style) (ph : BitVec 4) {lo hi : Int} {x : Nat → Int}
    (hx : ∀ k < 8, lo ≤ x k ∧ x k ≤ hi) :
    184 * lo - 56 * hi ≤ tapSum (kernelOf st ph) x ∧ tapSum (kernelOf st ph) x ≤ 184 * hi - 56 * lo := by
  have hlower := tapSum_kernelOf_lower_of_range st ph hx
  have hneg : ∀ k < 8, -hi ≤ -x k ∧ -x k ≤ -lo := fun k hk => ⟨neg_le_neg (hx k hk).2, neg_le_neg (hx k hk).1⟩
  have hupper := tapSum_kernelOf_lower_of_range st ph hneg
  rw [tapSum_neg] at hupper
  omega

/-- A selected kernel is one of the ROM, or the zero kernel of a reserved style (log 22). -/
theorem selectKernel_cases (style : BitVec 3) (size4 : Bool) (n : Nat) (ph : BitVec 4) :
    (∃ st, selectKernel style size4 n ph = kernelOf st ph) ∨ selectKernel style size4 n ph = Kernel.zero := by
  cases hst : styleOf style with
  | some st => exact .inl ⟨_, selectKernel_of_styleOf hst size4 n ph⟩
  | none => exact .inr (by rw [selectKernel, hst])

theorem tapSum_selectKernel_range (style : BitVec 3) (size4 : Bool) (n : Nat) (ph : BitVec 4) {x : Nat → Int}
    (hx : ∀ k, 0 ≤ x k ∧ x k ≤ 255) :
    -14280 ≤ tapSum (selectKernel style size4 n ph) x ∧ tapSum (selectKernel style size4 n ph) x ≤ 46920 := by
  obtain ⟨st, hK⟩ | hK := selectKernel_cases style size4 n ph
  · rw [hK]
    exact tapSum_kernelOf_range st ph hx
  · rw [hK, tapSum_zero]
    decide

theorem hs_range (p : Snapshot) (m : Memory) (r c : Int) : -14280 ≤ hs p m r c ∧ hs p m r c ≤ 46920 :=
  tapSum_selectKernel_range _ _ _ _ fun _ => sample_range p m _ _

theorem vs_range (p : Snapshot) (m : Memory) (r c : Int) : -14280 ≤ vs p m r c ∧ vs p m r c ≤ 46920 :=
  tapSum_selectKernel_range _ _ _ _ fun _ => sample_range p m _ _

/-- Settles O28: HS and VS are tap sums over the tap index, of samples in 0 .. 255 under a selected kernel. -/
theorem filterSums : Obligations.FilterSums := fun p m r c =>
  ⟨tapSum_eq_sum _ _, tapSum_eq_sum _ _, (hs_range p m r c).1, (hs_range p m r c).2, (vs_range p m r c).1,
    (vs_range p m r c).2⟩

/-! ## Halved taps -/

/-- The tap sum with every tap shifted right by 1 (41_datapath.md R164). -/
def halfTapSum (K : Kernel) (x : Nat → Int) : Int := ∑ k ∈ Finset.range 8, asr (K.tap k) 1 * x k

theorem two_mul_asr_one_of_even {t : Int} (ht : t % 2 = 0) : 2 * asr t 1 = t := by
  rw [asr, pow_one]
  omega

/-- Every tap of the ROM is even, so halving loses nothing. -/
theorem tapSum_kernelOf_eq_two_mul (st : Style) (ph : BitVec 4) (x : Nat → Int) :
    tapSum (kernelOf st ph) x = 2 * halfTapSum (kernelOf st ph) x := by
  rw [tapSum_eq_sum, halfTapSum, Finset.mul_sum]
  refine Finset.sum_congr rfl fun k hk => ?_
  rw [← mul_assoc, two_mul_asr_one_of_even (kernelOf_tap_even st ph (Finset.mem_range.1 hk))]

/-- Rounding an even value by one bit more is rounding its half. -/
theorem roundShift_two_mul_succ (u : Int) (n : Nat) : roundShift (2 * u) (n + 1) = roundShift u n := by
  cases n with
  | zero =>
    rw [roundShift_zero, roundShift_of_one_le _ le_rfl]
    omega
  | succ n =>
    rw [roundShift_of_one_le _ (Nat.succ_pos _), roundShift_of_one_le _ (Nat.succ_pos _)]
    calc (2 * u + 2 ^ (n + 1)) / 2 ^ (n + 2) = (2 * (u + 2 ^ n)) / (2 * 2 ^ (n + 1)) := by ring_nf
      _ = (u + 2 ^ n) / 2 ^ (n + 1) := Int.mul_ediv_mul_of_pos _ _ two_pos

/-- Settles O30: the rounded value is twice the halved sum, and HOFF twice its half; the shift by `r0 - 1` with the halved bias is
ROUND by `r0 - 1`. -/
theorem halvedTapFormAgrees : Obligations.HalvedTapFormAgrees := by
  intro st ph x r0 hr0
  obtain ⟨n, rfl⟩ := Nat.exists_eq_add_of_le' hr0
  have hhoff : hoff = 2 * asr hoff 1 := by decide
  have hsum : hoff + tapSum (kernelOf st ph) x = 2 * (asr hoff 1 + halfTapSum (kernelOf st ph) x) := by
    rw [mul_add, ← hhoff, tapSum_kernelOf_eq_two_mul]
  constructor
  · rw [hsum]
    exact roundShift_two_mul_succ _ n
  · rw [tapSum_kernelOf_eq_two_mul]
    exact roundShift_two_mul_succ _ n

end Sys2Proof.Machine
end

section
/-! The intermediate buffer and the vertical sum of a 2-D command (41_datapath.md R163, R165). -/

namespace Sys2Proof.Machine

theorem roundShift_mono {u v : Int} (h : u ≤ v) (n : Nat) : roundShift u n ≤ roundShift v n :=
  Int.ediv_le_ediv (by positivity) (add_le_add_left h _)

theorem hoff_eq : hoff = 16384 := by decide

/-- `HOFF + HS` lies in 2104 .. 63304. -/
theorem hoff_add_hs_range (p : Snapshot) (m : Memory) (i c : Int) :
    2104 ≤ hoff + hs p m i c ∧ hoff + hs p m i c ≤ 63304 := by
  have h := hs_range p m i c
  rw [hoff_eq]
  omega

/-- The least and the greatest entry are the roundings of the ends of `HOFF + HS`. -/
theorem imValue_range (p : Snapshot) (m : Memory) (i c : Int) :
    roundShift 2104 p.r0 ≤ imValue p m i c ∧ imValue p m i c ≤ roundShift 63304 p.r0 :=
  ⟨roundShift_mono (hoff_add_hs_range p m i c).1 _, roundShift_mono (hoff_add_hs_range p m i c).2 _⟩

/-- The least entry is that of `r0 = 7`, the greatest that of `r0 = 1`. -/
theorem roundShift_hoff_add_hs_ends {n : Nat} (h1 : 1 ≤ n) (h7 : n ≤ 7) :
    16 ≤ roundShift 2104 n ∧ roundShift 63304 n ≤ 31652 := by
  interval_cases n <;> decide

theorem imValue_range_of_legal (p : Snapshot) (m : Memory) (i c : Int) (h1 : 1 ≤ p.r0) (h7 : p.r0 ≤ 7) :
    16 ≤ imValue p m i c ∧ imValue p m i c ≤ 31652 := by
  have hends := roundShift_hoff_add_hs_ends h1 h7
  have hval := imValue_range p m i c
  omega

/-- The signed 16-bit store of an entry keeps its value. -/
theorem imAt_horizontalPass_eq_imValue {s : State} (h1 : 1 ≤ s.snap.r0) (h7 : s.snap.r0 ≤ 7) {i c : Int} (hi : -3 ≤ i)
    (hi' : i ≤ s.snap.h + 3) (hc : 0 ≤ c) (hc' : c < s.snap.w) :
    imAt (horizontalPass s) i c = imValue s.snap s.mem i c := by
  have hval := imValue_range_of_legal s.snap s.mem i c h1 h7
  rw [imAt_horizontalPass s i c hi hi' hc hc', BitVec.toInt_ofInt_eq_self (by decide)] <;> omega

/-- Settles O31: the stored entry is its rounded sum, and the bounds are those of the sum and of its rounding. -/
theorem intermediateBufferNeverWraps : Obligations.IntermediateBufferNeverWraps := by
  intro s h1 h7 i c hi hi' hc hc'
  have hstored := imAt_horizontalPass_eq_imValue h1 h7 hi hi' hc hc'
  obtain ⟨hlo, hhi⟩ := hoff_add_hs_range s.snap s.mem i c
  obtain ⟨hmin, hmax⟩ := imValue_range_of_legal s.snap s.mem i c h1 h7
  rw [hstored]
  exact ⟨hlo, hhi, rfl, hmin, hmax⟩

/-! ## The vertical sum -/

theorem voff_eq (p : Snapshot) : p.voff = 2 ^ (22 - p.r0) := one_mul _

/-- The vertical offset leaves room for the weights 184 and -56 on the ends of IM, for every legal `r0`. -/
theorem vertical_range_of_legal {n : Nat} (h1 : 1 ≤ n) (h7 : n ≤ 7) :
    7992 ≤ (2 : Int) ^ (22 - n) + (184 * roundShift 2104 n - 56 * roundShift 63304 n) ∧
    (2 : Int) ^ (22 - n) + (184 * roundShift 63304 n - 56 * roundShift 2104 n) ≤ 7862208 := by
  interval_cases n <;> decide

/-- The vertical offset by itself, the sum under the zero kernel of a reserved style (log 22). -/
theorem voff_range_of_legal {n : Nat} (h1 : 1 ≤ n) (h7 : n ≤ 7) :
    7992 ≤ (2 : Int) ^ (22 - n) ∧ (2 : Int) ^ (22 - n) ≤ 7862208 := by
  interval_cases n <;> decide

/-- The vertical window of a block position has entries that the horizontal pass wrote, so they lie between the ends for `r0`. -/
theorem imAt_horizontalPass_range {s : State} (h1 : 1 ≤ s.snap.r0) (h7 : s.snap.r0 ≤ 7) {r c : Nat} (hr : r < s.snap.h)
    (hc : c < s.snap.w) {k : Nat} (hk : k < 8) :
    roundShift 2104 s.snap.r0 ≤ imAt (horizontalPass s) (r - 3 + k) c ∧
    imAt (horizontalPass s) (r - 3 + k) c ≤ roundShift 63304 s.snap.r0 := by
  rw [imAt_horizontalPass_eq_imValue h1 h7 (by omega) (by omega) (by omega) (by omega)]
  exact imValue_range _ _ _ _

/-- For a window of IM, V2 lies in its range under a kernel of the ROM and under the zero kernel. -/
theorem voff_add_tapSum_range {p : Snapshot} (h1 : 1 ≤ p.r0) (h7 : p.r0 ≤ 7) {x : Nat → Int}
    (hx : ∀ k < 8, roundShift 2104 p.r0 ≤ x k ∧ x k ≤ roundShift 63304 p.r0) :
    7992 ≤ p.voff + tapSum p.ky x ∧ p.voff + tapSum p.ky x ≤ 7862208 := by
  rw [voff_eq]
  obtain ⟨st, hK⟩ | hK : (∃ st, p.ky = kernelOf st p.py) ∨ p.ky = Kernel.zero := selectKernel_cases _ _ _ _
  · have hsum := tapSum_kernelOf_range_of_range st p.py hx
    have hends := vertical_range_of_legal h1 h7
    rw [hK]
    omega
  · rw [hK, tapSum_zero, add_zero]
    exact voff_range_of_legal h1 h7

/-- Settles O32: V2 is the offset and a tap sum over the tap index, whose window is entries that the horizontal pass wrote. -/
theorem verticalSumFits : Obligations.VerticalSumFits := by
  intro s h1 h7 r hr c hc
  refine ⟨congrArg₂ (· + ·) (voff_eq s.snap) (tapSum_eq_sum _ _), ?_⟩
  exact voff_add_tapSum_range h1 h7 fun _ => imAt_horizontalPass_range h1 h7 hr hc

end Sys2Proof.Machine
end

section
/-! The constants of a command (41_datapath.md R160) under the legal roundings of the two classes (42_single_ref.md R190,
43_compound.md R210). -/

namespace Sys2Proof.Machine

open Sys2Proof.Safety

theorem ob_eq (p : Snapshot) : p.ob = 22 - p.r0 := rfl

theorem rb_eq (p : Snapshot) : p.rb = 14 - p.r0 - p.r1 := rfl

theorem ro_eq (p : Snapshot) : p.ro = 2 ^ (p.ob - p.r1) + 2 ^ (p.ob - p.r1 - 1) :=
  congrArg₂ (· + ·) (one_mul _) (one_mul _)

theorem ro_of_exponent {p : Snapshot} {n : Nat} (h : p.ob - p.r1 = n) : p.ro = 2 ^ n + 2 ^ (n - 1) := by
  rw [ro_eq, h]

theorem rb_of_legalRoundSr {p : Snapshot} (h : LegalRoundSr p) : p.rb = 0 := by
  obtain ⟨-, -, hsum⟩ := h
  rw [rb_eq]
  omega

theorem ob_sub_r1_of_legalRoundSr {p : Snapshot} (h : LegalRoundSr p) : p.ob - p.r1 = 8 := by
  obtain ⟨-, -, hsum⟩ := h
  rw [ob_eq]
  omega

theorem ro_of_legalRoundSr {p : Snapshot} (h : LegalRoundSr p) : p.ro = 384 :=
  ro_of_exponent (ob_sub_r1_of_legalRoundSr h)

/-- No subtraction in `RB` and in the exponents of RO is cut off at 0 (43_compound.md R210). -/
theorem exponents_of_legalRoundCompound {p : Snapshot} (h : LegalRoundCompound p) :
    p.r0 + p.r1 ≤ 14 ∧ p.rb ≤ 6 ∧ 7 - p.r0 ≤ 6 ∧ 7 - p.r1 ≤ 6 ∧ 7 ≤ p.ob - p.r1 - 1 := by
  obtain ⟨hr0, hr0', hr1, hr1', hsum⟩ := h
  rw [rb_eq, ob_eq]
  omega

/-- The profile (3, 7) has `OB - r1 = 12`. -/
theorem constants_of_profile_three_seven {p : Snapshot} (h0 : p.r0 = 3) (h1 : p.r1 = 7) : p.ro = 6144 ∧ p.rb = 4 :=
  ⟨ro_of_exponent (n := 12) (by rw [ob_eq, h0, h1]), by rw [rb_eq, h0, h1]⟩

/-- Settles O29: the two single-reference exponents are fixed by `r0 + r1 = 14`, and the compound ones are bounded. -/
theorem commandConstants : Obligations.CommandConstants := by
  refine ⟨fun p h => ⟨rb_of_legalRoundSr h, ob_sub_r1_of_legalRoundSr h, ro_of_legalRoundSr h⟩, fun p h => ?_⟩
  obtain ⟨hsum, hrb, hr0, hr1, hexp⟩ := exponents_of_legalRoundCompound h
  exact ⟨ob_eq p, ro_eq p, rb_eq p, hsum, hrb, hr0, hr1, hexp, constants_of_profile_three_seven⟩

end Sys2Proof.Machine
end

section
/-! The 2-D path with an identity kernel on one axis is the 1-D path of the other axis, and the half-pel average
(42_single_ref.md R196, R197). -/

namespace Sys2Proof.Machine

open Sys2Proof.Safety

/-! ## Rounding and powers of two -/

/-- A factor `2 ^ k` cancels against `k` bits of the shift. -/
theorem roundShift_two_pow_mul (u : Int) (n k : Nat) : roundShift (2 ^ k * u) (n + k) = roundShift u n := by
  induction k with
  | zero => rw [pow_zero, one_mul, Nat.add_zero]
  | succ k ih =>
    calc roundShift (2 ^ (k + 1) * u) (n + k + 1) = roundShift (2 * (2 ^ k * u)) (n + k + 1) := by rw [pow_succ', mul_assoc]
      _ = roundShift u n := by rw [roundShift_two_mul_succ, ih]

theorem roundShift_two_pow_mul_self (u : Int) (n : Nat) : roundShift (2 ^ n * u) n = u := by
  simpa using roundShift_two_pow_mul u 0 n

/-- The two stages of `conv.sr.x` on a multiple of `2 ^ 6` round once: the first is exact for `r0 ≤ 6`, the second the identity for
`r0 = 7`. -/
theorem roundShift_roundShift_of_sixty_four_mul (u : Int) {n : Nat} (h7 : n ≤ 7) :
    roundShift (roundShift (2 ^ 6 * u) n) (7 - n) = roundShift u 1 := by
  obtain rfl | h6 := h7.eq_or_lt
  · rw [roundShift_zero]
    exact roundShift_two_pow_mul u 1 6
  · obtain ⟨k, hk⟩ := Nat.exists_eq_add_of_le (Nat.le_of_lt_succ h6)
    rw [hk, pow_add, mul_assoc, roundShift_two_pow_mul_self, show 7 - n = 1 + k by omega, roundShift_two_pow_mul]

/-- A multiple of the divisor passes through the rounding. -/
theorem roundShift_two_pow_add {a n : Nat} (h : n ≤ a) (v : Int) :
    roundShift (2 ^ a + v) n = 2 ^ (a - n) + roundShift v n := by
  have hpow : (2 : Int) ^ a = 2 ^ n * 2 ^ (a - n) := by rw [← pow_add, Nat.add_sub_cancel' h]
  simp only [roundShift, asr]
  rw [hpow, add_assoc, Int.mul_add_ediv_left _ _ (by positivity)]

/-! ## Tap sums under the kernels of the rule -/

theorem tapSum_const_add (K : Kernel) (a : Int) (x : Nat → Int) :
    tapSum K (fun k => a + x k) = K.taps.sum * a + tapSum K x := by
  simp only [tapSum, Kernel.taps, List.sum_cons, List.sum_nil]
  ring

theorem tapSum_const_mul (K : Kernel) (a : Int) (x : Nat → Int) : tapSum K (fun k => a * x k) = a * tapSum K x := by
  simp only [tapSum]
  ring

/-- The identity kernel of phase 0 scales the sample at the tap origin by 128. -/
theorem tapSum_kernelOf_phase_zero (st : Style) (x : Nat → Int) : tapSum (kernelOf st 0) x = 2 ^ 7 * x 3 := by
  rw [kernelOf_phase_zero]
  simp [tapSum]

theorem kernelOf_bilinear_half : kernelOf .bilinear 8 = ⟨0, 0, 0, 64, 64, 0, 0, 0⟩ := by decide

theorem tapSum_kernelOf_bilinear_half (x : Nat → Int) : tapSum (kernelOf .bilinear 8) x = 2 ^ 6 * (x 3 + x 4) := by
  rw [kernelOf_bilinear_half]
  simp [tapSum, mul_add]

/-- BILINEAR is never substituted, so the field value 3 selects its kernel for every dimension. -/
theorem selectKernel_bilinear (size4 : Bool) (n : Nat) (ph : BitVec 4) :
    selectKernel 3 size4 n ph = kernelOf .bilinear ph := by
  rw [selectKernel_of_styleOf (st := .bilinear) (by decide), effStyle_of_not_substituted (.inl rfl)]

/-! ## The filter sums at phase 0 and at the half-pel phase -/

theorem window_offset_three (c : Int) : c - Config.tapOrigin + (3 : Nat) = c := sub_add_cancel c 3

theorem window_offset_four (c : Int) : c - Config.tapOrigin + (4 : Nat) = c + 1 := by
  simp only [Config.tapOrigin]
  omega

section
variable {p : Snapshot}

theorem hs_of_phase_zero {st : Style} (hst : styleOf p.sx = some st) (hpx : p.px = 0) (m : Memory) (r c : Int) :
    hs p m r c = 2 ^ 7 * sample p m r c := by
  rw [hs, Snapshot.kx, selectKernel_of_styleOf hst, hpx, tapSum_kernelOf_phase_zero, window_offset_three]

theorem hs_of_half_pel (hsx : p.sx = 3) (hpx : p.px = 8) (m : Memory) (r c : Int) :
    hs p m r c = 2 ^ 6 * (sample p m r c + sample p m r (c + 1)) := by
  rw [hs, Snapshot.kx, hsx, hpx, selectKernel_bilinear, tapSum_kernelOf_bilinear_half,
    window_offset_three, window_offset_four]

theorem vs_of_half_pel (hsy : p.sy = 3) (hpy : p.py = 8) (m : Memory) (r c : Int) :
    vs p m r c = 2 ^ 6 * (sample p m r c + sample p m (r + 1) c) := by
  rw [vs, Snapshot.ky, hsy, hpy, selectKernel_bilinear, tapSum_kernelOf_bilinear_half,
    window_offset_three, window_offset_four]

/-! ## The 2-D value without its offsets -/

/-- HOFF leaves the horizontal rounding as `2 ^ (14 - r0)`. -/
theorem roundShift_hoff_add {n : Nat} (h : n ≤ 14) (v : Int) : roundShift (hoff + v) n = 2 ^ (14 - n) + roundShift v n :=
  roundShift_two_pow_add h v

/-- The offsets of the two passes leave the vertical rounding as RO, for a vertical kernel whose taps sum to 128. -/
theorem vrPure_eq_ro_add (hK : p.ky.taps.sum = 128) (h0 : p.r0 ≤ 14) (h1 : p.r0 + p.r1 ≤ 21) (m : Memory) (r c : Int) :
    vrPure p m r c =
      p.ro + roundShift (tapSum p.ky fun k => roundShift (hs p m (r - 3 + k) c) p.r0) p.r1 := by
  have hpow : (128 : Int) * 2 ^ (14 - p.r0) = 2 ^ (21 - p.r0) := by
    rw [show (128 : Int) = 2 ^ 7 by norm_num, ← pow_add, show 7 + (14 - p.r0) = 21 - p.r0 by omega]
  simp only [vrPure, roundShift_hoff_add h0, voff_eq]
  rw [tapSum_const_add, hK, hpow, roundShift_two_pow_add (by omega), roundShift_two_pow_add (by omega), ← add_assoc, ro_eq,
    ob_eq, show 21 - p.r0 - p.r1 = 22 - p.r0 - p.r1 - 1 by omega]

theorem sum_taps_ky {st : Style} (hst : styleOf p.sy = some st) : p.ky.taps.sum = 128 := by
  rw [Snapshot.ky, selectKernel_of_styleOf hst, kernelOf_sum_taps]

theorem singleTwoDPure_of_legalRoundSr (h : LegalRoundSr p) {st : Style} (hst : styleOf p.sy = some st) (m : Memory)
    (r c : Int) : singleTwoDPure p m r c =
      clip8 (roundShift (tapSum p.ky fun k => roundShift (hs p m (r - 3 + k) c) p.r0) p.r1) := by
  have hrb := rb_of_legalRoundSr h
  obtain ⟨-, h7, hsum⟩ := h
  rw [singleTwoDPure, vrPure_eq_ro_add (sum_taps_ky hst) (by omega) (by omega), add_sub_cancel_left, hrb, roundShift_zero]

/-- 42_single_ref.md R196 (b). -/
theorem singleTwoDPure_eq_singleX (h : LegalRoundSr p) {st : Style} (hst : styleOf p.sy = some st) (hpy : p.py = 0)
    (m : Memory) (r c : Int) : singleTwoDPure p m r c = singleX p m r c := by
  rw [singleTwoDPure_of_legalRoundSr h hst, singleX, Snapshot.ky, selectKernel_of_styleOf hst, hpy, tapSum_kernelOf_phase_zero]
  obtain ⟨-, h7, hsum⟩ := h
  rw [show p.r1 = 7 - p.r0 + 7 by omega, roundShift_two_pow_mul, Nat.cast_ofNat, sub_add_cancel]

/-- 42_single_ref.md R196 (c): the horizontal pass is exact, as its sum is a multiple of `2 ^ 7` and `r0 ≤ 7`. -/
theorem singleTwoDPure_eq_singleY (h : LegalRoundSr p) {st st' : Style} (hsx : styleOf p.sx = some st)
    (hsy : styleOf p.sy = some st') (hpx : p.px = 0) (m : Memory) (r c : Int) :
    singleTwoDPure p m r c = singleY p m r c := by
  rw [singleTwoDPure_of_legalRoundSr h hsy]
  obtain ⟨-, h7, hsum⟩ := h
  have himExact (i : Int) : roundShift (hs p m i c) p.r0 = 2 ^ (7 - p.r0) * sample p m i c := by
    have hpow : (2 : Int) ^ 7 = 2 ^ p.r0 * 2 ^ (7 - p.r0) := by rw [← pow_add, Nat.add_sub_cancel' h7]
    rw [hs_of_phase_zero hsx hpx, hpow, mul_assoc, roundShift_two_pow_mul_self]
  simp only [himExact]
  rw [tapSum_const_mul, show p.r1 = 7 + (7 - p.r0) by omega, roundShift_two_pow_mul]
  rfl

/-! ## The half-pel average -/

theorem clip8_roundShift_one_add (p : Snapshot) (m : Memory) (r c r' c' : Int) :
    clip8 (roundShift (sample p m r c + sample p m r' c') 1) = (sample p m r c + sample p m r' c' + 1) / 2 := by
  have h := sample_range p m r c
  have h' := sample_range p m r' c'
  rw [roundShift_of_one_le _ le_rfl]
  exact clip8_of_range (by omega) (by omega)

theorem singleX_of_half_pel (h7 : p.r0 ≤ 7) (hsx : p.sx = 3) (hpx : p.px = 8) (m : Memory) (r c : Int) :
    singleX p m r c = (sample p m r c + sample p m r (c + 1) + 1) / 2 := by
  rw [singleX, hs_of_half_pel hsx hpx, roundShift_roundShift_of_sixty_four_mul _ h7, clip8_roundShift_one_add]

theorem singleY_of_half_pel (hsy : p.sy = 3) (hpy : p.py = 8) (m : Memory) (r c : Int) :
    singleY p m r c = (sample p m r c + sample p m (r + 1) c + 1) / 2 := by
  rw [singleY, vs_of_half_pel hsy hpy, roundShift_two_pow_mul _ 1 6, clip8_roundShift_one_add]

end

/-- Settles O38: the kernel by its row of the ROM, the 1-D paths by their sums `64 * (a + b)`, and the 2-D path by its agreement
with them. -/
theorem halfPelAverage : Obligations.HalfPelAverage := by
  refine ⟨kernelOf_bilinear_half, fun p m r c _ h7 => ⟨fun hsx hpx => singleX_of_half_pel h7 hsx hpx m r c,
    fun hsy hpy => singleY_of_half_pel hsy hpy m r c⟩, fun p m r c h hsx hsy => ?_⟩
  have ⟨_, h7, _⟩ := h
  have hstx : styleOf p.sx = some .bilinear := by rw [hsx]; decide
  have hsty : styleOf p.sy = some .bilinear := by rw [hsy]; decide
  constructor
  · intro hpx hpy
    rw [singleTwoDPure_eq_singleX h hsty hpy, singleX_of_half_pel h7 hsx hpx]
  · intro hpx hpy
    rw [singleTwoDPure_eq_singleY h hstx hsty hpx, singleY_of_half_pel hsy hpy]

end Sys2Proof.Machine
end

section
/-! A command that is issued on a legal configuration and undisturbed completes in the same step (30_encoding.md R110, R111;
60_exceptions.md R243, R248). -/

namespace Sys2Proof.Machine

open Sys2Proof.Safety

/-! ## A legal configuration passes the checks -/

theorem styleOf_eq_none_iff (n : BitVec 3) : styleOf n = none ↔ n = 6 ∨ n = 7 := by
  revert n
  decide

theorem Path.usesX_iff (path : Path) : path.usesX = true ↔ path = .x ∨ path = .twoD := by
  cases path <;> decide

theorem Path.usesY_iff (path : Path) : path.usesY = true ↔ path = .y ∨ path = .twoD := by
  cases path <;> decide

section
variable {i : Instr} {p : Snapshot}

theorem sizeFails_iff : sizeFails p = true ↔ Violates i p .size := by
  simp only [sizeFails, Violates, Bool.not_eq_true', Bool.and_eq_false_iff, decide_eq_false_iff_not, Config.maxW, Config.maxH]
  omega

theorem filterFails_iff : filterFails (p.path i) p = true ↔ Violates i p .filter := by
  simp [filterFails, Violates, Path.usesX_iff, Path.usesY_iff, styleOf_eq_none_iff]

theorem roundFails_iff : roundFails i.mode p = true ↔ Violates i p .round := by
  cases hm : i.mode <;> simp [roundFails, Violates, LegalRoundSr, LegalRoundCompound, hm] <;> omega

theorem weightFails_iff : weightFails i.mode p = true ↔ Violates i p .weight := by
  simp [weightFails, Violates]

theorem strideFails_iff : strideFails i.mode p = true ↔ Violates i p .stride := by
  cases hm : i.mode <;> simp [strideFails, Violates, hm, Mode.writesDst, Mode.touchesCbuf]

theorem alignFails_iff : alignFails i.mode p = true ↔ Violates i p .align := by
  cases hm : i.mode <;> simp [alignFails, Violates, hm, Mode.touchesCbuf]

theorem checkInstr_eq_none_of_legal (h : Legal i p) : checkInstr i p = none := by
  obtain ⟨hsize, hfilter, hround, hweight, hstride, halign⟩ := h
  rw [checkInstr, if_neg (mt sizeFails_iff.1 hsize), if_neg (mt filterFails_iff.1 hfilter), if_neg (mt roundFails_iff.1 hround),
    if_neg (mt weightFails_iff.1 hweight), if_neg (mt strideFails_iff.1 hstride), if_neg (mt alignFails_iff.1 halign)]

end

/-! ## An undisturbed command completes -/

/-- The state in which a command ends when its end comes right after its acceptance. -/
def started (i : Instr) (s : State) : State := { start i (accept (encode i) s) with events := afterEngine s.events }

@[simp] theorem started_snap (i : Instr) (s : State) : (started i s).snap = accepted i s := rfl
@[simp] theorem started_mem (i : Instr) (s : State) : (started i s).mem = s.mem := rfl

section
variable {i : Instr} {s : State}

theorem command_of_runs (h : Runs i s) (pass : State → List ByteStore) : command i pass s = finish i pass (started i s) := by
  obtain ⟨hidle, hnext, hlegal⟩ := h
  simp [command, hidle, checkInstr_eq_none_of_legal hlegal, hnext, started]

theorem busRefuses_started (h : BusAdmits i s) : busRefuses i (started i s) = false := by
  obtain ⟨hsamples, hreads, hdst, hcbuf⟩ := h
  have hsample : refusesSample ((accepted i s).path i) (started i s) = false :=
    List.any_eq_false.2 fun q hq => by simp [started, hsamples q hq]
  have hread : (i.mode.readsCbuf && refusesCbufRead (started i s)) = false := by
    cases hm : i.mode.readsCbuf with
    | false => rfl
    | true => exact List.any_eq_false.2 fun a ha => by simp [started, hreads hm a ha]
  have hwrite : refusesWrite i.mode (started i s) = false := by
    unfold refusesWrite
    cases hm : i.mode.writesDst with
    | false => exact List.any_eq_false.2 fun a ha => by simp [started, hcbuf hm a ha]
    | true => exact List.any_eq_false.2 fun a ha => by simp [started, hdst hm a ha]
  rw [busRefuses, started_snap, hsample, hread, hwrite]
  rfl

/-- The results of an undisturbed command are not tainted when it starts, and no element is raced yet. -/
theorem settle_started (h : Undisturbed i s) (ws : List ByteStore) : settle i (started i s) ws = ws := by
  obtain ⟨hapart, hvisible, hplain⟩ := h
  exact settle_of_quiet _ _ _ (by simp [started, hapart, hvisible, hplain]) rfl

/-- The command completes, and memory takes the byte stores of its rule. -/
theorem exec_of_canComplete (h : CanComplete i s) :
    exec i s = .next (completedState i s (s.mem.writeAll (passOf i (started i s)))) := by
  obtain ⟨hruns, hbus, hquiet, -⟩ := h
  rw [exec_eq_command, command_of_runs hruns, finish, busRefuses_started hbus, if_neg Bool.false_ne_true, complete, resultMemory,
    settle_started hquiet]
  rfl

end

end Sys2Proof.Machine
end

section
/-! The compound first pass (43_compound.md R217 to R220): the CBUF elements of a legal block are apart, so each holds the two
bytes that the loop stores for it. -/

namespace Sys2Proof.Machine

open Sys2Proof.Safety

/-! ## The elements of a CBUF block -/

/-- Rows of `w` elements that do not meet: row and column can be read off an element's offset. -/
theorem element_offset_injective {stride w r c r' c' : Nat} (hc : c < w) (hc' : c' < w) (hrow : w ≤ stride ∨ r = r')
    (h : r * stride + c = r' * stride + c') : r = r' ∧ c = c' := by
  obtain hw | rfl := hrow
  · have hquot {q d : Nat} (hd : d < w) : (q * stride + d) / stride = q ∧ (q * stride + d) % stride = d :=
      (Nat.div_mod_unique (by omega)).2 ⟨by ring, by omega⟩
    obtain ⟨hdiv, hmod⟩ := hquot (q := r) hc
    obtain ⟨hdiv', hmod'⟩ := hquot (q := r') hc'
    exact ⟨hdiv.symm.trans (h ▸ hdiv'), hmod.symm.trans (h ▸ hmod')⟩
  · exact ⟨rfl, Nat.add_left_cancel h⟩

/-- The low byte of an element is at an even distance from CBUF_BASE, the high byte at an odd one. -/
theorem cbufAddr_add_one_ne (p : Snapshot) (r c r' c' : Nat) : cbufAddr p r c + 1 ≠ cbufAddr p r' c' := by
  unfold cbufAddr
  bv_omega

section
variable {i : Instr} {p : Snapshot}

/-- The offsets of a block's elements are far below the wrap at 2^32. -/
theorem element_offset_lt {r c : Nat} (hr : r < 128) (hc : c < 128) : r * p.cbufStride + c < 2 ^ 31 := by
  have hstride : p.cbufStride < 2 ^ 16 := (p.regs.cbufStride.extractLsb' 0 16).isLt
  have hprod : r * p.cbufStride ≤ 128 * 2 ^ 16 := Nat.mul_le_mul hr.le hstride.le
  omega

/-- The SIZE and STRIDE checks keep the elements of a block apart (60_exceptions.md R243). -/
theorem cbufAddr_injective_of_legal (h : Legal i p) (hmode : i.mode = .cmp) {r c r' c' : Nat} (hr : r < p.h) (hc : c < p.w)
    (hr' : r' < p.h) (hc' : c' < p.w) (heq : cbufAddr p r c = cbufAddr p r' c') : r = r' ∧ c = c' := by
  obtain ⟨hsize, -, -, -, hstride, -⟩ := h
  obtain ⟨-, hw, -, hh⟩ := not_not.1 hsize
  have hrows : 1 < p.h → p.w ≤ p.cbufStride := fun h1 =>
    not_lt.1 fun hlt => hstride ⟨h1, .inr ⟨by simp [hmode], hlt⟩⟩
  have hlt := element_offset_lt (p := p) (hr.trans_le hh) (hc.trans_le hw)
  have hlt' := element_offset_lt (p := p) (hr'.trans_le hh) (hc'.trans_le hw)
  have hoff : r * p.cbufStride + c = r' * p.cbufStride + c' := by
    unfold cbufAddr at heq
    generalize r * p.cbufStride + c = k at heq hlt ⊢
    generalize r' * p.cbufStride + c' = k' at heq hlt' ⊢
    bv_omega
  exact element_offset_injective hc hc' (by omega) hoff

end

/-! ## The CMP loop -/

/-- The byte stores of the CMP loop for a prediction (43_compound.md section 3). -/
def cmpStores (p : Snapshot) (P : Nat → Nat → Int) : List ByteStore := forBlock p fun r c => writeCbuf p r c (P r c)

theorem mem_cmpStores (p : Snapshot) (P : Nat → Nat → Int) (w : ByteStore) :
    w ∈ cmpStores p P ↔ ∃ r < p.h, ∃ c < p.w,
      w = (cbufAddr p r c, BitVec.ofInt 8 (P r c)) ∨ w = (cbufAddr p r c + 1, BitVec.ofInt 8 (P r c / 256)) := by
  simp [cmpStores, mem_forBlock]

section
variable {i : Instr} {p : Snapshot} {m : Memory} {P : Nat → Nat → Int}

theorem read8_cmpStores_low (h : Legal i p) (hmode : i.mode = .cmp) (hm : m.wf) {r c : Nat} (hr : r < p.h) (hc : c < p.w) :
    (m.writeAll (cmpStores p P)).read8 (cbufAddr p r c) = BitVec.ofInt 8 (P r c) := by
  refine Memory.read8_writeAll_of_mem m _ _ _ hm ((mem_cmpStores _ _ _).2 ⟨r, hr, c, hc, .inl rfl⟩) fun w hw hat => ?_
  obtain ⟨r', hr', c', hc', rfl | rfl⟩ := (mem_cmpStores _ _ _).1 hw
  · obtain ⟨rfl, rfl⟩ := cbufAddr_injective_of_legal h hmode hr' hc' hr hc hat
    rfl
  · exact absurd hat (cbufAddr_add_one_ne p r' c' r c)

theorem read8_cmpStores_high (h : Legal i p) (hmode : i.mode = .cmp) (hm : m.wf) {r c : Nat} (hr : r < p.h) (hc : c < p.w) :
    (m.writeAll (cmpStores p P)).read8 (cbufAddr p r c + 1) = BitVec.ofInt 8 (P r c / 256) := by
  refine Memory.read8_writeAll_of_mem m _ _ _ hm ((mem_cmpStores _ _ _).2 ⟨r, hr, c, hc, .inr rfl⟩) fun w hw hat => ?_
  obtain ⟨r', hr', c', hc', rfl | rfl⟩ := (mem_cmpStores _ _ _).1 hw
  · exact absurd hat.symm (cbufAddr_add_one_ne p r c r' c')
  · obtain ⟨rfl, rfl⟩ := cbufAddr_injective_of_legal h hmode hr' hc' hr hc (add_right_cancel hat)
    rfl

theorem read8_cmpStores_other (hm : m.wf) {a : Word}
    (ha : ∀ r < p.h, ∀ c < p.w, a ≠ cbufAddr p r c ∧ a ≠ cbufAddr p r c + 1) :
    (m.writeAll (cmpStores p P)).read8 a = m.read8 a := by
  refine Memory.read8_writeAll_other _ _ _ hm fun w hw hat => ?_
  obtain ⟨r, hr, c, hc, rfl | rfl⟩ := (mem_cmpStores _ _ _).1 hw
  · exact (ha r hr c hc).1 hat.symm
  · exact (ha r hr c hc).2 hat.symm

end

/-! ## Completion with the predictions in CBUF -/

/-- A command whose rule is the CMP loop leaves the predictions in CBUF and every other byte as it was. -/
theorem completesCbuf_of_passOf {i : Instr} {s : State} {f : Snapshot → Memory → Nat → Nat → Int} (hmode : i.mode = .cmp)
    (h : CanComplete i s) (hpass : passOf i (started i s) = cmpStores (accepted i s) (f (accepted i s) s.mem)) :
    CompletesCbuf i s f := by
  have hlegal := h.runs.legal
  refine ⟨_, exec_of_canComplete h, fun r hr c hc => ?_, fun a ha => ?_⟩ <;> rw [hpass]
  · exact ⟨read8_cmpStores_low hlegal hmode h.memory hr hc, read8_cmpStores_high hlegal hmode h.memory hr hc⟩
  · exact read8_cmpStores_other h.memory ha

/-- Settles O14: each of the three rules is the CMP loop for its formula, by its definition. -/
theorem cmpDirectResults : Obligations.CmpDirectResults := fun _ =>
  ⟨fun h => completesCbuf_of_passOf rfl h rfl, fun h => completesCbuf_of_passOf rfl h rfl,
    fun h => completesCbuf_of_passOf rfl h rfl⟩

/-- The vertical pass over IM is the one over unbounded integers: the signed 16-bit store keeps every entry of the window. -/
theorem vr_horizontalPass_eq_vrPure {s : State} (h1 : 1 ≤ s.snap.r0) (h7 : s.snap.r0 ≤ 7) {r c : Nat} (hr : r < s.snap.h)
    (hc : c < s.snap.w) : vr (horizontalPass s) r c = vrPure s.snap s.mem r c := by
  have hwindow := tapSum_congr s.snap.ky _ _ fun k (hk : k < 8) =>
    imAt_horizontalPass_eq_imValue (s := s) (i := r - 3 + k) (c := c) h1 h7 (by omega) (by omega) (by omega) (by omega)
  exact congrArg (fun sum => roundShift (s.snap.voff + sum) s.snap.r1) hwindow

theorem legalRoundCompound_of_legal {i : Instr} {p : Snapshot} (h : Legal i p) (hmode : i.mode ≠ .sr) :
    LegalRoundCompound p := by
  obtain ⟨-, -, hround, -⟩ := h
  simpa [Violates, hmode] using hround

/-- Settles O15: the rule is the CMP loop for VR, which the legal rounding makes the value on unbounded integers. -/
theorem cmpTwoDResult : Obligations.CmpTwoDResult := by
  intro s h
  obtain ⟨h1, h7, -⟩ := legalRoundCompound_of_legal h.runs.legal (by decide)
  have hpass : passOf .cmpTwoD (started .cmpTwoD s) = cmpStores (accepted .cmpTwoD s) (vrPure (accepted .cmpTwoD s) s.mem · ·) :=
    forBlock_congr _ _ _ fun r hr c hc =>
      congrArg (writeCbuf _ r c) (vr_horizontalPass_eq_vrPure (s := started .cmpTwoD s) h1 h7 hr hc)
  exact completesCbuf_of_passOf rfl h hpass

end Sys2Proof.Machine
end

section
/-! The range of the compound prediction (43_compound.md R216). The prediction of every kind is monotone in the sum it rounds, so it
lies between its values at the ends of the sum; those are evaluated for each of the legal roundings. -/

namespace Sys2Proof.Machine

open Sys2Proof.Safety

/-! ## The sum of each kind and its ends -/

/-- What each kind rounds: the sample, HS, VS, or the vertical sum over IM without its offset (43_compound.md R212 to R215). -/
def kindSum (p : Snapshot) (m : Memory) (r c : Int) : Path → Int
  | .copy => sample p m r c
  | .x => hs p m r c
  | .y => vs p m r c
  | .twoD => tapSum p.ky fun k => imValue p m (r - 3 + k) c

/-- The lower end of `kindSum`; for kind 2D by the weights 184 and -56 on the ends of IM. -/
def kindSumMin (r0 : Nat) : Path → Int
  | .copy => 0
  | .x => -14280
  | .y => -14280
  | .twoD => 184 * roundShift 2104 r0 - 56 * roundShift 63304 r0

/-- The upper end of `kindSum`. -/
def kindSumMax (r0 : Nat) : Path → Int
  | .copy => 255
  | .x => 46920
  | .y => 46920
  | .twoD => 184 * roundShift 63304 r0 - 56 * roundShift 2104 r0

/-- The zero kernel of a reserved style (log 22) gives 0, so a range around 0 holds it as well. -/
theorem tapSum_selectKernel_range_of_range (style : BitVec 3) (size4 : Bool) (n : Nat) (ph : BitVec 4) {lo hi : Int}
    {x : Nat → Int} (hx : ∀ k < 8, lo ≤ x k ∧ x k ≤ hi) (hzero : 184 * lo - 56 * hi ≤ 0 ∧ 0 ≤ 184 * hi - 56 * lo) :
    184 * lo - 56 * hi ≤ tapSum (selectKernel style size4 n ph) x ∧
    tapSum (selectKernel style size4 n ph) x ≤ 184 * hi - 56 * lo := by
  obtain ⟨st, hK⟩ | hK := selectKernel_cases style size4 n ph
  · rw [hK]
    exact tapSum_kernelOf_range_of_range st ph hx
  · rwa [hK, tapSum_zero]

theorem vertical_ends_around_zero {n : Nat} (h1 : 1 ≤ n) (h7 : n ≤ 7) :
    184 * roundShift 2104 n - 56 * roundShift 63304 n ≤ 0 ∧ 0 ≤ 184 * roundShift 63304 n - 56 * roundShift 2104 n := by
  interval_cases n <;> decide

theorem kindSum_range {p : Snapshot} (h1 : 1 ≤ p.r0) (h7 : p.r0 ≤ 7) (m : Memory) (r c : Int) (k : Path) :
    kindSumMin p.r0 k ≤ kindSum p m r c k ∧ kindSum p m r c k ≤ kindSumMax p.r0 k := by
  cases k with
  | copy => exact sample_range p m r c
  | x => exact hs_range p m r c
  | y => exact vs_range p m r c
  | twoD =>
    have hwindow : ∀ j < 8, roundShift 2104 p.r0 ≤ imValue p m (r - 3 + (j : Nat)) c ∧
        imValue p m (r - 3 + (j : Nat)) c ≤ roundShift 63304 p.r0 :=
      fun _ _ => imValue_range p m _ c
    exact (tapSum_selectKernel_range_of_range _ _ _ _ hwindow (vertical_ends_around_zero h1 h7) :)

/-! ## The prediction as a function of the sum -/

/-- RO for the roundings `r0` and `r1`. -/
def roOf (r0 r1 : Nat) : Int := shl 1 (22 - r0 - r1) + shl 1 (22 - r0 - r1 - 1)

/-- The prediction of each kind from its sum `v` (43_compound.md R212 to R215). -/
def predOfSum (r0 r1 : Nat) (v : Int) : Path → Int
  | .copy => shl v (14 - r0 - r1) + roOf r0 r1
  | .x => shl (roundShift v r0) (7 - r1) + roOf r0 r1
  | .y => roundShift (shl v (7 - r0)) r1 + roOf r0 r1
  | .twoD => roundShift (shl 1 (22 - r0) + v) r1

section
variable (p : Snapshot) (m : Memory) (r c : Int)

theorem predCopy_eq_predOfSum : predCopy p m r c = predOfSum p.r0 p.r1 (kindSum p m r c .copy) .copy := rfl

theorem predX_eq_predOfSum : predX p m r c = predOfSum p.r0 p.r1 (kindSum p m r c .x) .x := rfl

theorem predY_eq_predOfSum : predY p m r c = predOfSum p.r0 p.r1 (kindSum p m r c .y) .y := rfl

theorem vrPure_eq_predOfSum : vrPure p m r c = predOfSum p.r0 p.r1 (kindSum p m r c .twoD) .twoD := rfl

end

theorem shl_mono {u v : Int} (h : u ≤ v) (n : Nat) : shl u n ≤ shl v n :=
  mul_le_mul_of_nonneg_right h (by positivity)

theorem predOfSum_mono {u v : Int} (h : u ≤ v) (r0 r1 : Nat) (k : Path) : predOfSum r0 r1 u k ≤ predOfSum r0 r1 v k := by
  cases k with
  | copy => exact add_le_add (shl_mono h _) le_rfl
  | x => exact add_le_add (shl_mono (roundShift_mono h _) _) le_rfl
  | y => exact add_le_add (roundShift_mono (shl_mono h _) _) le_rfl
  | twoD => exact roundShift_mono (add_le_add le_rfl h) _

/-! ## The bounds -/

/-- The least end value, 62, is that of kind 2D for (7, 7), the greatest, 61476, that of kind 2D for (7, 1). -/
theorem predOfSum_ends_of_legal (k : Path) : ∀ r0 ∈ Finset.Icc 1 7, ∀ r1 ∈ Finset.Icc (8 - r0) 7,
    62 ≤ predOfSum r0 r1 (kindSumMin r0 k) k ∧ predOfSum r0 r1 (kindSumMax r0 k) k ≤ 61476 := by
  cases k <;> decide

theorem predOfSum_kindSum_between_ends {p : Snapshot} (h1 : 1 ≤ p.r0) (h7 : p.r0 ≤ 7) (m : Memory) (r c : Int) (k : Path) :
    predOfSum p.r0 p.r1 (kindSumMin p.r0 k) k ≤ predOfSum p.r0 p.r1 (kindSum p m r c k) k ∧
    predOfSum p.r0 p.r1 (kindSum p m r c k) k ≤ predOfSum p.r0 p.r1 (kindSumMax p.r0 k) k := by
  obtain ⟨hmin, hmax⟩ := kindSum_range h1 h7 m r c k
  exact ⟨predOfSum_mono hmin _ _ k, predOfSum_mono hmax _ _ k⟩

theorem predOfSum_kindSum_range {p : Snapshot} (h : LegalRoundCompound p) (m : Memory) (r c : Int) (k : Path) :
    62 ≤ predOfSum p.r0 p.r1 (kindSum p m r c k) k ∧ predOfSum p.r0 p.r1 (kindSum p m r c k) k ≤ 61476 := by
  obtain ⟨h1, h7, -, h7', hsum⟩ := h
  obtain ⟨hmin, hmax⟩ := predOfSum_kindSum_between_ends h1 h7 m r c k
  obtain ⟨hlow, hhigh⟩ := predOfSum_ends_of_legal k _ (Finset.mem_Icc.2 ⟨h1, h7⟩) _ (Finset.mem_Icc.2 ⟨by omega, h7'⟩)
  exact ⟨hlow.trans hmin, hmax.trans hhigh⟩

/-- The lower bounds of the profile (3, 7). -/
def profileMin : Path → Int
  | .copy => 6144
  | .x => 4359
  | .y => 4359
  | .twoD => 1012

/-- The upper bounds of the profile (3, 7). -/
def profileMax : Path → Int
  | .copy => 10224
  | .x => 12009
  | .y => 12009
  | .twoD => 15356

theorem predOfSum_ends_of_profile (k : Path) :
    predOfSum 3 7 (kindSumMin 3 k) k = profileMin k ∧ predOfSum 3 7 (kindSumMax 3 k) k = profileMax k := by
  cases k <;> decide

theorem predOfSum_kindSum_range_of_profile {p : Snapshot} (h0 : p.r0 = 3) (h1 : p.r1 = 7) (m : Memory) (r c : Int) (k : Path) :
    profileMin k ≤ predOfSum p.r0 p.r1 (kindSum p m r c k) k ∧
    predOfSum p.r0 p.r1 (kindSum p m r c k) k ≤ profileMax k := by
  have hends := predOfSum_kindSum_between_ends (p := p) (by omega) (by omega) m r c k
  obtain ⟨hmin, hmax⟩ := predOfSum_ends_of_profile k
  rw [h0, h1, hmin, hmax] at hends
  rwa [h0, h1]

/-- Settles O33: the general bounds from the end values of all legal roundings, those of the profile from its own. -/
theorem predictionRange : Obligations.PredictionRange := by
  intro p m r c h
  rw [predCopy_eq_predOfSum, predX_eq_predOfSum, predY_eq_predOfSum, vrPure_eq_predOfSum]
  have hrange := predOfSum_kindSum_range h m r c
  refine ⟨hrange .copy, hrange .x, hrange .y, hrange .twoD, fun h0 h1 => ?_⟩
  have hprofile := predOfSum_kindSum_range_of_profile h0 h1 m r c
  exact ⟨hprofile .copy, hprofile .x, hprofile .y, hprofile .twoD⟩

end Sys2Proof.Machine
end

section
/-! The checks of a command word as the first failing check in the priority order (60_exceptions.md R243, R244). -/

namespace Sys2Proof.Machine

open Sys2Proof.Safety

/-- All that the checks of a legal word can report: the first one that fails, or none. -/
theorem checkInstr_cases (i : Instr) (p : Snapshot) :
    (Violates i p .size ∧ checkInstr i p = some .size) ∨
    (¬Violates i p .size ∧ Violates i p .filter ∧ checkInstr i p = some .filter) ∨
    (¬Violates i p .size ∧ ¬Violates i p .filter ∧ Violates i p .round ∧ checkInstr i p = some .round) ∨
    (¬Violates i p .size ∧ ¬Violates i p .filter ∧ ¬Violates i p .round ∧ Violates i p .weight ∧
      checkInstr i p = some .weight) ∨
    (¬Violates i p .size ∧ ¬Violates i p .filter ∧ ¬Violates i p .round ∧ ¬Violates i p .weight ∧
      Violates i p .stride ∧ checkInstr i p = some .stride) ∨
    (¬Violates i p .size ∧ ¬Violates i p .filter ∧ ¬Violates i p .round ∧ ¬Violates i p .weight ∧
      ¬Violates i p .stride ∧ Violates i p .align ∧ checkInstr i p = some .align) ∨
    (Legal i p ∧ checkInstr i p = none) := by
  classical
  simp only [checkInstr, sizeFails_iff (i := i), filterFails_iff, roundFails_iff, weightFails_iff, strideFails_iff,
    alignFails_iff]
  split_ifs with hsize hfilter hround hweight hstride halign <;> simp [*, Legal]

theorem check_of_decode_ok {p : Snapshot} {i : Instr} (h : decode p.cmd = .ok i) : check p = checkInstr i p := by
  rw [check, h]

theorem check_of_decode_error {p : Snapshot} {x : FieldProblem} (h : decode p.cmd = .error x) :
    check p = some .illegalCmd := by
  rw [check, h]

/-- Settles O7: for a legal word each case of `checkInstr_cases` fixes the report and the checks that decide it. -/
theorem checkReportsFirstFailure : Obligations.CheckReportsFirstFailure := by
  refine ⟨fun p i hd => ?_, fun _ _ => check_of_decode_error, by decide⟩
  rw [check_of_decode_ok hd]
  rcases checkInstr_cases i p with ⟨hsize, hc⟩ | ⟨hsize, hfilter, hc⟩ | ⟨hsize, hfilter, hround, hc⟩ |
    ⟨hsize, hfilter, hround, hweight, hc⟩ | ⟨hsize, hfilter, hround, hweight, hstride, hc⟩ |
    ⟨hsize, hfilter, hround, hweight, hstride, halign, hc⟩ | ⟨⟨hsize, hfilter, hround, hweight, hstride, halign⟩, hc⟩
  all_goals simp [*, Legal]

end Sys2Proof.Machine
end

section
/-! A host write to CMD that starts no command: the configuration error (60_exceptions.md R245) and the overrun (R246). -/

namespace Sys2Proof.Machine

open Sys2Proof.Safety

/-! ## The configuration error -/

theorem command_of_checkInstr_eq_some {i : Instr} {s : State} {e : ErrCode} (hp : s.phase = .idle)
    (hc : checkInstr i (accepted i s) = some e) (pass : State → List ByteStore) :
    command i pass s = configError e (accept (encode i) s) := by
  simp only [command, hp, hc]

/-- A word that fails a check, illegal or legal, leaves acceptance and the error (60_exceptions.md R245). -/
theorem hostWrite_cmd_of_check_eq_some {v : Word} {s : State} {e : ErrCode} (hp : s.phase = .idle)
    (hc : check (s.snapshotWith v) = some e) :
    hostWrite .word cmdOffset v s = .next (configError e (accept v s)) := by
  cases hd : decode v with
  | error x =>
    rw [check_of_decode_error (p := s.snapshotWith v) hd] at hc
    cases hc
    rw [hostWrite_cmd_illegal v s x hd, issue_of_illegal hp hd]
  | ok i =>
    rw [check_of_decode_ok (p := s.snapshotWith v) hd] at hc
    obtain rfl := (decode_eq_ok_iff_eq_encode v i).1 hd
    rw [hostWrite_cmd_ok _ s i hd, exec_eq_command, command_of_checkInstr_eq_some hp hc]

/-- Settles O6: the step is the write of the failing word, whose result `configError_accept` gives field by field. -/
theorem configErrorIsPrecise : Obligations.ConfigErrorIsPrecise := by
  intro s v es e hp he hc
  calc step s
    _ = hostWrite .word cmdOffset v { s with events := es } := step_of_cons s _ es he
    _ = .next (configError e (accept v { s with events := es })) := hostWrite_cmd_of_check_eq_some hp hc
    _ = .next { acceptedState v s with err := true, errCode := e.code, events := es } :=
      congrArg Host.Outcome.next (configError_accept e v { s with events := es })

/-! ## The overrun -/

theorem command_of_busy {s : State} (h : s.phase = .busy) (i : Instr) (pass : State → List ByteStore) :
    command i pass s = overrun s := by
  simp only [command, h]

theorem issue_of_busy {s : State} (h : s.phase = .busy) (v : Word) : issue v s = overrun s := by
  simp only [issue, h]

/-- A BUSY engine drops every word, legal or not, and notes it in OVR (60_exceptions.md R246). -/
theorem hostWrite_cmd_of_busy {s : State} (h : s.phase = .busy) (v : Word) :
    hostWrite .word cmdOffset v s = .next (overrun s) := by
  cases hd : decode v with
  | ok i => rw [hostWrite_cmd_ok v s i hd, exec_eq_command, command_of_busy h]
  | error x => rw [hostWrite_cmd_illegal v s x hd, issue_of_busy h]

end Sys2Proof.Machine
end

section
/-! OVR is sticky: only a STATUS write with its bit and reset clear it (60_exceptions.md R246). -/

namespace Sys2Proof.Machine

/-! ## What keeps OVR -/

theorem command_keeps_ovr (i : Instr) (pass : State → List ByteStore) {s : State} (h : s.ovr = true) :
    (command i pass s).ovr = true := by
  rcases command_cases i pass s with ⟨-, hc⟩ | ⟨_, -, -, hc⟩ | ⟨-, -, -, hc⟩ | ⟨-, -, -, hc⟩ <;> rw [hc]
  · rfl
  · exact h
  · exact (finish_flags i pass _).1.trans h
  · exact h

theorem issue_keeps_ovr (v : Word) {s : State} (h : s.ovr = true) : (issue v s).ovr = true := by
  rcases issue_cases v s with ⟨-, hc⟩ | ⟨_, -, -, hc⟩ | ⟨_, _, -, -, -, hc⟩ | ⟨_, -, -, -, hc⟩ <;> rw [hc]
  · rfl
  all_goals exact h

/-- STATUS and CMD are the only registers whose write reaches OVR. -/
theorem writeReg_ovr {r : Reg} (hstatus : r ≠ .status) (hcmd : r ≠ .cmd) (v : Word) (s : State) :
    (writeReg r v s).ovr = s.ovr := by
  cases r with
  | status => exact absurd rfl hstatus
  | cmd => exact absurd rfl hcmd
  | _ => rfl

theorem engineTurn_ovr {s t : State} (h : engineTurn s = .next t) : t.ovr = s.ovr := by
  unfold engineTurn at h
  split at h
  · cases h
    rfl
  · split at h
    next i _ =>
      cases h
      exact (finish_flags i (passOf i) s).1
    · cases h

/-! ## What clears OVR -/

theorem writeStatus_ovr_eq_false_iff {v : Word} {s : State} (h : s.ovr = true) :
    (writeStatus v s).ovr = false ↔ v.getLsbD 3 = true := by
  simp [writeStatus, h]

theorem eq_statusOffset_of_regAt {off : BitVec 8} (h : regAt off = some .status) : off = 0x04 := by
  revert off
  decide

theorem size_eq_word_of_hostWrite_eq_next {size : AccessSize} {off : BitVec 8} {v : Word} {s t : State}
    (h : hostWrite size off v s = .next t) : size = .word := by
  by_contra hne
  have hundefined : mmioDefined size off = false := by simp [mmioDefined, hne]
  simp [hostWrite, hundefined] at h

/-- A register write that clears OVR is one to STATUS with bit 3 set (10_state.md R35). -/
theorem hostWrite_clears_ovr {size : AccessSize} {off : BitVec 8} {v : Word} {s t : State} (hs : s.ovr = true)
    (hrun : hostWrite size off v s = .next t) (ht : t.ovr = false) :
    size = .word ∧ off = 0x04 ∧ v.getLsbD 3 = true := by
  refine ⟨size_eq_word_of_hostWrite_eq_next hrun, ?_⟩
  rcases hostWrite_cases size off v s with ⟨-, hw⟩ | ⟨i, -, -, hw⟩ | ⟨_, -, -, hw⟩ | ⟨r, hcmd, hr, hw⟩ | ⟨-, hw⟩
  all_goals rw [hw] at hrun
  · cases hrun
  · rw [exec_eq_command] at hrun
    cases hrun
    exact absurd ht (by simp [command_keeps_ovr i _ hs])
  · cases hrun
    exact absurd ht (by simp [issue_keeps_ovr v hs])
  · cases hrun
    by_cases hstatus : r = .status
    · subst hstatus
      exact ⟨eq_statusOffset_of_regAt hr, (writeStatus_ovr_eq_false_iff hs).1 ht⟩
    · exact absurd ht (by simp [writeReg_ovr hstatus hcmd, hs])
  · cases hrun
    exact absurd ht (by simp [hs])

/-- The events outside the register block, the engine and reset do not reach OVR. -/
theorem runEvent_memory_ovr {e : Event} {s t : State} (hrun : runEvent e s = .next t)
    (hw : ∀ size off v, e ≠ .regWrite size off v) (hr : ∀ size off, e ≠ .regRead size off) (he : e ≠ .engine)
    (hx : e ≠ .reset) : t.ovr = s.ovr := by
  obtain ⟨u, hu, -, -, -, hovr, -⟩ := runEvent_memory_frame e s hw hr he hx
  cases hrun.symm.trans hu
  exact hovr

/-- All the events that can clear OVR. -/
theorem runEvent_clears_ovr {e : Event} {s t : State} (hs : s.ovr = true) (hrun : runEvent e s = .next t)
    (ht : t.ovr = false) : (∃ v, e = .regWrite .word 0x04 v ∧ v.getLsbD 3 = true) ∨ e = .reset := by
  have not_kept : t.ovr ≠ s.ovr := by simp [hs, ht]
  cases e with
  | regWrite size off v =>
    obtain ⟨rfl, rfl, hbit⟩ := hostWrite_clears_ovr hs hrun ht
    exact .inl ⟨v, rfl, hbit⟩
  | regRead size off =>
    obtain ⟨_, rfl⟩ := hostRead_frame size off s t hrun
    exact absurd rfl not_kept
  | engine => exact absurd (engineTurn_ovr hrun) not_kept
  | reset => exact .inr rfl
  | _ => exact absurd (runEvent_memory_ovr hrun (by simp) (by simp) (by simp) (by simp)) not_kept

/-- Settles O5: the overrun by `hostWrite_cmd_of_busy`; what clears OVR by `runEvent_clears_ovr` and, where no event is left, by
`engineTurn_ovr`. -/
theorem overrunDropsWord : Obligations.OverrunDropsWord := by
  refine ⟨fun s v es hp he => ⟨?_, rfl⟩, fun s t hs hstep ht => ?_⟩
  · exact (step_of_cons s _ es he).trans (hostWrite_cmd_of_busy (s := { s with events := es }) hp v)
  · cases he : s.events with
    | nil =>
      rw [step_of_nil s he] at hstep
      exact absurd (engineTurn_ovr hstep) (by simp [hs, ht])
    | cons e es =>
      rw [step_of_cons s e es he] at hstep
      rcases runEvent_clears_ovr (s := { s with events := es }) hs hstep ht with ⟨v, rfl, hbit⟩ | rfl
      · exact .inl ⟨v, es, rfl, hbit⟩
      · exact .inr ⟨es, rfl⟩

end Sys2Proof.Machine
end

section
/-! After reset no command starts before BLK_SIZE and ROUND are written (70_reset_and_hazards.md R272): while one of them is 0 some
check fails, and no event but a host write to the register itself takes it from 0. -/

namespace Sys2Proof.Machine

open Sys2Proof.Safety

/-! ## The checks while BLK_SIZE or ROUND is 0 -/

section
variable {p : Snapshot}

theorem check_eq_size_iff {i : Instr} (h : decode p.cmd = .ok i) : check p = some .size ↔ Violates i p .size :=
  (checkReportsFirstFailure.1 p i h).1

theorem check_eq_none_iff_legal {i : Instr} (h : decode p.cmd = .ok i) : check p = none ↔ Legal i p := by
  obtain ⟨-, -, -, -, -, -, hnone⟩ := checkReportsFirstFailure.1 p i h
  exact hnone

/-- BLK_SIZE = 0 holds the width 0. -/
theorem violates_size_of_blkSize_eq_zero (h : p.regs.blkSize = 0) (i : Instr) : Violates i p .size := by
  have hw : p.w = 0 := by simp [Snapshot.w, h]
  simp [Violates, hw]

/-- ROUND = 0 holds `r0 = 0`, which no mode allows. -/
theorem violates_round_of_round_eq_zero (h : p.regs.round = 0) (i : Instr) : Violates i p .round := by
  have hr0 : p.r0 = 0 := by simp [Snapshot.r0, h]
  simp [Violates, LegalRoundSr, LegalRoundCompound, hr0]

theorem not_legal_of_blkSize_or_round_eq_zero (h : p.regs.blkSize = 0 ∨ p.regs.round = 0) (i : Instr) : ¬Legal i p := by
  rintro ⟨hsize, -, hround, -⟩
  rcases h with hb | hr
  · exact hsize (violates_size_of_blkSize_eq_zero hb i)
  · exact hround (violates_round_of_round_eq_zero hr i)

/-- Whatever the word, the checks report something. -/
theorem exists_check_eq_some (h : p.regs.blkSize = 0 ∨ p.regs.round = 0) : ∃ e, check p = some e := by
  cases hd : decode p.cmd with
  | error x => exact ⟨.illegalCmd, check_of_decode_error hd⟩
  | ok i =>
    have hne : check p ≠ none := fun hnone =>
      not_legal_of_blkSize_or_round_eq_zero h i ((check_eq_none_iff_legal hd).1 hnone)
    exact Option.ne_none_iff_exists'.1 hne

end

/-! ## What a step does to the configuration registers -/

theorem command_regs (i : Instr) (pass : State → List ByteStore) (s : State) : (command i pass s).regs = s.regs := by
  rcases command_cases i pass s with ⟨-, hc⟩ | ⟨_, -, -, hc⟩ | ⟨-, -, -, hc⟩ | ⟨-, -, -, hc⟩ <;> rw [hc]
  · rfl
  · rfl
  · obtain ⟨-, -, hregs, -⟩ := finish_frame i pass { start i (accept (encode i) s) with events := afterEngine s.events }
    exact hregs
  · rfl

theorem issue_regs (v : Word) (s : State) : (issue v s).regs = s.regs := by
  rcases issue_cases v s with ⟨-, hc⟩ | ⟨_, -, -, hc⟩ | ⟨_, _, -, -, -, hc⟩ | ⟨_, -, -, -, hc⟩ <;> rw [hc] <;> rfl

theorem engineTurn_regs {s t : State} (h : engineTurn s = .next t) : t.regs = s.regs := by
  unfold engineTurn at h
  split at h
  · cases h
    rfl
  · split at h
    next i _ =>
      cases h
      obtain ⟨-, -, hregs, -⟩ := finish_frame i (passOf i) s
      exact hregs
    · cases h

/-- A host write that is not refused leaves the configuration registers, or writes the one its offset lists. -/
theorem hostWrite_regs {size : AccessSize} {off : BitVec 8} {v : Word} {s t : State} (h : hostWrite size off v s = .next t) :
    t.regs = s.regs ∨ ∃ r, regAt off = some r ∧ t.regs = (writeReg r v s).regs := by
  rcases hostWrite_cases size off v s with ⟨-, hw⟩ | ⟨i, -, -, hw⟩ | ⟨_, -, -, hw⟩ | ⟨r, -, hr, hw⟩ | ⟨-, hw⟩
  all_goals rw [hw] at h
  · cases h
  · rw [exec_eq_command] at h
    cases h
    exact .inl (command_regs i (passOf i) s)
  · cases h
    exact .inl (issue_regs v s)
  · cases h
    exact .inr ⟨r, hr, rfl⟩
  · cases h
    exact .inl rfl

/-- The events outside the register block, the engine and reset do not reach the configuration registers. -/
theorem runEvent_memory_regs {e : Event} {s t : State} (h : runEvent e s = .next t)
    (hw : ∀ size off v, e ≠ .regWrite size off v) (hr : ∀ size off, e ≠ .regRead size off) (he : e ≠ .engine)
    (hx : e ≠ .reset) : t.regs = s.regs := by
  obtain ⟨u, hu, -, -, -, -, -, -, -, hregs, -⟩ := runEvent_memory_frame e s hw hr he hx
  cases h.symm.trans hu
  exact hregs

/-- All that an event can do to the configuration registers. -/
theorem runEvent_regs {e : Event} {s t : State} (h : runEvent e s = .next t) :
    t.regs = s.regs ∨ (e = .reset ∧ t.regs = ConfigRegs.reset) ∨
      ∃ off v r, e = .regWrite .word off v ∧ regAt off = some r ∧ t.regs = (writeReg r v s).regs := by
  cases e with
  | regWrite size off v =>
    obtain rfl := size_eq_word_of_hostWrite_eq_next h
    rcases hostWrite_regs h with hkept | ⟨r, hr, hwritten⟩
    · exact .inl hkept
    · exact .inr (.inr ⟨off, v, r, rfl, hr, hwritten⟩)
  | regRead size off =>
    obtain ⟨_, rfl⟩ := hostRead_frame size off s t h
    exact .inl rfl
  | engine => exact .inl (engineTurn_regs h)
  | reset =>
    cases h
    exact .inr (.inl ⟨rfl, rfl⟩)
  | _ => exact .inl (runEvent_memory_regs h (by simp) (by simp) (by simp) (by simp))

/-- A field of the configuration registers that reset makes 0 and only writes to the register `reg` change leaves 0 only in a step
whose event is a host write to that register's offset. -/
theorem event_eq_regWrite_of_leaves_zero {field : ConfigRegs → Word} {reg : Reg} {off : BitVec 8}
    (hreset : field ConfigRegs.reset = 0) (hoff : ∀ o, regAt o = some reg → o = off)
    (hkeep : ∀ r, r ≠ reg → ∀ v s, field (writeReg r v s).regs = field s.regs)
    {s t : State} (hstep : step s = .next t) (hs : field s.regs = 0) (ht : field t.regs ≠ 0) :
    ∃ v es, s.events = .regWrite .word off v :: es := by
  have not_kept : t.regs ≠ s.regs := fun hregs => ht (hregs ▸ hs)
  cases he : s.events with
  | nil =>
    rw [step_of_nil s he] at hstep
    exact absurd (engineTurn_regs hstep) not_kept
  | cons e es =>
    rw [step_of_cons s e es he] at hstep
    rcases runEvent_regs hstep with hkept | ⟨-, hzero⟩ | ⟨o, v, r, rfl, hr, hwritten⟩
    · exact absurd hkept not_kept
    · exact absurd (hzero ▸ hreset) ht
    · by_cases hreg : r = reg
      · obtain rfl := hoff o (hreg ▸ hr)
        exact ⟨v, es, rfl⟩
      · rw [hwritten, hkeep r hreg] at ht
        exact absurd hs ht

/-! ## BLK_SIZE and ROUND -/

theorem writeReg_regs_blkSize (r : Reg) (h : r ≠ .blkSize) (v : Word) (s : State) :
    (writeReg r v s).regs.blkSize = s.regs.blkSize := by
  cases r with
  | blkSize => exact absurd rfl h
  | cmd => exact congrArg ConfigRegs.blkSize (issue_regs v s)
  | _ => rfl

theorem writeReg_regs_round (r : Reg) (h : r ≠ .round) (v : Word) (s : State) :
    (writeReg r v s).regs.round = s.regs.round := by
  cases r with
  | round => exact absurd rfl h
  | cmd => exact congrArg ConfigRegs.round (issue_regs v s)
  | _ => rfl

theorem eq_blkSizeOffset_of_regAt : ∀ off, regAt off = some .blkSize → off = 0x28 := by decide

theorem eq_roundOffset_of_regAt : ∀ off, regAt off = some .round → off = 0x34 := by decide

/-- The step of the first CMD write after reset, whatever its word. -/
theorem reset_cmd_write_refused (v : Word) : ∃ t : State,
    step { State.reset with events := [.regWrite .word cmdOffset v] } = .next t ∧
    t.phase = .idle ∧ t.cmd = v ∧ t.err = true ∧ t.mem = State.reset.mem ∧
    (∀ i : Instr, decode v = .ok i → t.errCode = 2) ∧ (∀ x, decode v = .error x → t.errCode = 1) := by
  have hstep := configErrorIsPrecise { State.reset with events := [.regWrite .word cmdOffset v] } v []
  cases hd : decode v with
  | ok i =>
    have hcheck := (check_eq_size_iff (p := State.reset.snapshotWith v) hd).2 (violates_size_of_blkSize_eq_zero rfl i)
    exact ⟨_, hstep .size rfl rfl hcheck, rfl, rfl, rfl, rfl, fun _ _ => rfl, fun _ h => (nomatch h)⟩
  | error x =>
    have hcheck := check_of_decode_error (p := State.reset.snapshotWith v) hd
    exact ⟨_, hstep .illegalCmd rfl rfl hcheck, rfl, rfl, rfl, rfl, fun _ h => (nomatch h), fun _ _ => rfl⟩

/-- Settles O47: the first word by `reset_cmd_write_refused`, any word while a register is 0 by the check that fails, and what takes
the registers from 0 by `event_eq_regWrite_of_leaves_zero`. -/
theorem afterResetCommandsAreRefused : Obligations.AfterResetCommandsAreRefused := by
  refine ⟨reset_cmd_write_refused, fun s v es hp hzero he => ?_, fun s t hstep => ⟨?_, ?_⟩⟩
  · obtain ⟨e, hcheck⟩ := exists_check_eq_some (p := s.snapshotWith v) hzero
    exact ⟨_, configErrorIsPrecise s v es e hp he hcheck, hp, rfl, rfl, rfl⟩
  · exact event_eq_regWrite_of_leaves_zero (field := ConfigRegs.blkSize) rfl eq_blkSizeOffset_of_regAt
      writeReg_regs_blkSize hstep
  · exact event_eq_regWrite_of_leaves_zero (field := ConfigRegs.round) rfl eq_roundOffset_of_regAt
      writeReg_regs_round hstep

end Sys2Proof.Machine
end

section
/-! What a step can do, said once: the effect of each event on the state (60_exceptions.md R250), and what an access to memory from
outside the engine leaves. -/

namespace Sys2Proof.Machine

open Sys2Proof.Safety

/-! ## Accesses to memory from outside the engine -/

/-- Everything that a register reads, the phase and the snapshot are in `t` as in `s`. -/
structure RegistersKept (s t : State) : Prop where
  phase : t.phase = s.phase
  done : t.done = s.done
  err : t.err = s.err
  ovr : t.ovr = s.ovr
  errCode : t.errCode = s.errCode
  cmd : t.cmd = s.cmd
  irqEn : t.irqEn = s.irqEn
  regs : t.regs = s.regs
  ksel : t.ksel = s.ksel
  snap : t.snap = s.snap

theorem RegistersKept.readReg_eq {s t : State} (h : RegistersKept s t) (r : Reg) : readReg r t = readReg r s := by
  obtain ⟨hphase, hdone, herr, hovr, hcode, hcmd, hirq, hregs, hksel, -⟩ := h
  cases r <;> simp only [readReg, statusWord, State.busy, *]

theorem RegistersKept.inFlight_eq {s t : State} (h : RegistersKept s t) : t.inFlight = s.inFlight := by
  simp only [State.inFlight, h.phase, h.snap]

/-- The events that are an access to memory by the host or another agent. -/
def Event.isMemoryAccess : Event → Bool
  | .memLoad .. | .memStore .. | .memPost .. | .memFence | .memDrain | .otherStore .. | .memInvalidate .. => true
  | .regWrite .. | .regRead .. | .engine | .reset => false

/-- The byte stores that an event makes visible, the host's posted stores being `posted` (20_memory.md R84, R87). -/
def Event.visibleStores (posted : List ByteStore) : Event → List ByteStore
  | .memStore size a v | .otherStore size a v => storeBytes size a v
  | .memFence => posted
  | .memDrain => posted.take 1
  | _ => []

/-- The host's stores that are still posted after an event (20_memory.md R84). -/
def Event.postedAfter (posted : List ByteStore) : Event → List ByteStore
  | .memPost size a v => posted ++ storeBytes size a v
  | .memFence => []
  | .memDrain => posted.drop 1
  | _ => posted

/-- What an access to memory leaves: memory with the stores that become visible performed, the queue of posted stores, and all that
belongs to the register block and the platform as it was. -/
structure AccessEffect (e : Event) (s t : State) : Prop where
  kept : RegistersKept s t
  events : t.events = s.events
  mem : t.mem = s.mem.writeAll (e.visibleStores s.posted)
  posted : t.posted = e.postedAfter s.posted
  busHoles : t.busHoles = s.busHoles

/-- A run of byte stores by one agent has the effect of an access, if `u` differs from `s` in what it notes of its stores only. -/
theorem accessEffect_of_foldl {e : Event} {s u : State} {ws : List ByteStore} (hkept : RegistersKept s u)
    (hevents : u.events = s.events) (hmem : u.mem = s.mem) (hbus : u.busHoles = s.busHoles)
    (hws : e.visibleStores s.posted = ws) (hposted : u.posted = e.postedAfter s.posted) :
    AccessEffect e s (ws.foldl agentStore u) := by
  obtain ⟨fmem, fphase, fdone, ferr, fovr, fcode, fcmd, firq, fregs, fksel, fsnap, fevents, fposted, -, -, fbus⟩ :=
    foldl_agentStore_frame ws u
  exact
    { kept :=
        { phase := fphase.trans hkept.phase, done := fdone.trans hkept.done, err := ferr.trans hkept.err,
          ovr := fovr.trans hkept.ovr, errCode := fcode.trans hkept.errCode, cmd := fcmd.trans hkept.cmd,
          irqEn := firq.trans hkept.irqEn, regs := fregs.trans hkept.regs, ksel := fksel.trans hkept.ksel,
          snap := fsnap.trans hkept.snap }
      events := fevents.trans hevents
      mem := by rw [fmem, hmem, hws]
      posted := fposted.trans hposted
      busHoles := fbus.trans hbus }

theorem RegistersKept.of_notes {s : State} {mem : Memory} {events : List Event} {posted : List ByteStore} {stale : List Word} {tainted : Bool}
    {raced : List Word} {rdata : Word} {draws : Nat} :
    RegistersKept s { s with
      mem := mem, events := events, posted := posted, stale := stale, tainted := tainted, raced := raced, rdata := rdata, draws := draws } :=
  ⟨rfl, rfl, rfl, rfl, rfl, rfl, rfl, rfl, rfl, rfl⟩

theorem runEvent_access {e : Event} (he : e.isMemoryAccess = true) (s : State) :
    ∃ t, runEvent e s = .next t ∧ AccessEffect e s t := by
  cases e with
  | regWrite | regRead | engine | reset => cases he
  | memLoad | memPost | memInvalidate => exact ⟨_, rfl, .of_notes, rfl, rfl, rfl, rfl⟩
  | memStore | otherStore | memFence =>
    exact ⟨_, rfl, accessEffect_of_foldl .of_notes rfl rfl rfl rfl rfl⟩
  | memDrain =>
    rcases memDrainEvent_cases s with ⟨hp, h⟩ | ⟨w, ws, hp, h⟩
    · refine ⟨s, congrArg Host.Outcome.next h, .of_notes, rfl, ?_, ?_, rfl⟩ <;>
        simp [Event.visibleStores, Event.postedAfter, hp]
    · refine ⟨_, congrArg Host.Outcome.next h, accessEffect_of_foldl .of_notes rfl rfl rfl ?_ ?_⟩ <;>
        simp [Event.visibleStores, Event.postedAfter, hp]

/-- The step of an access to memory. -/
theorem step_of_access {e : Event} (he : e.isMemoryAccess = true) {s : State} {es : List Event} (hev : s.events = e :: es) :
    ∃ t, step s = .next t ∧ RegistersKept s t ∧ t.events = es ∧ t.mem = s.mem.writeAll (e.visibleStores s.posted) ∧
      t.posted = e.postedAfter s.posted := by
  obtain ⟨t, hrun, heff⟩ := runEvent_access he { s with events := es }
  obtain ⟨hphase, hdone, herr, hovr, hcode, hcmd, hirq, hregs, hksel, hsnap⟩ := heff.kept
  exact ⟨t, (step_of_cons s e es hev).trans hrun, ⟨hphase, hdone, herr, hovr, hcode, hcmd, hirq, hregs, hksel, hsnap⟩,
    heff.events, heff.mem, heff.posted⟩

/-! ## The end of a command as the next event -/

/-- An IDLE engine's event changes nothing but the events to come (60_exceptions.md R255). -/
theorem step_of_idle_engineNext {s : State} (hidle : s.phase = .idle) (hnext : engineNext s.events = true) :
    step s = .next { s with events := afterEngine s.events } := by
  cases hev : s.events with
  | nil =>
    rw [step_of_nil s hev, engineTurn_idle s hidle]
    exact congrArg (fun es => Host.Outcome.next { s with events := es }) hev
  | cons e es =>
    rw [hev] at hnext
    cases e with
    | engine => exact (step_of_cons s _ es hev).trans (engineTurn_idle { s with events := es } hidle)
    | _ => cases hnext

/-- A BUSY engine without a command faults at its event (log 19). -/
theorem step_of_busy_of_inFlight_eq_none {s : State} (hbusy : s.phase = .busy) (hfly : s.inFlight = none)
    (hnext : engineNext s.events = true) : step s = .fault .noCommandInFlight := by
  have hturn (es : List Event) : engineTurn { s with events := es } = .fault .noCommandInFlight := by
    unfold State.inFlight at hfly
    cases hd : decode s.snap.cmd with
    | ok i => simp [hbusy, hd] at hfly
    | error x => simp [engineTurn, hbusy, hd]
  cases hev : s.events with
  | nil => exact (step_of_nil s hev).trans (hturn s.events)
  | cons e es =>
    rw [hev] at hnext
    cases e with
    | engine => exact (step_of_cons s _ es hev).trans (hturn es)
    | _ => cases hnext

/-! ## A host write to CMD -/

/-- A word is issued to an IDLE engine: it fails a check, or it is the word of a command with a legal configuration. -/
theorem check_snapshotWith_cases (s : State) (v : Word) :
    (∃ e, check (s.snapshotWith v) = some e) ∨ ∃ i, v = encode i ∧ Legal i (accepted i s) := by
  cases hc : check (s.snapshotWith v) with
  | some e => exact .inl ⟨e, rfl⟩
  | none =>
    cases hd : decode v with
    | error x => rw [check_of_decode_error (p := s.snapshotWith v) hd] at hc; cases hc
    | ok i =>
      have hlegal := (check_eq_none_iff_legal (p := s.snapshotWith v) hd).1 hc
      obtain rfl := (decode_eq_ok_iff_eq_encode v i).1 hd
      exact .inr ⟨i, rfl, hlegal⟩

theorem exec_of_runs {i : Instr} {s : State} (h : Runs i s) : exec i s = .next (finish i (passOf i) (started i s)) := by
  rw [exec_eq_command, command_of_runs h]

/-- A legal command whose end is not the next event is in flight (30_encoding.md R110). -/
theorem exec_of_not_engineNext {i : Instr} {s : State} (hidle : s.phase = .idle) (hnext : engineNext s.events = false)
    (hlegal : Legal i (accepted i s)) : exec i s = .next (start i (accept (encode i) s)) := by
  rw [exec_eq_command]
  simp [command, hidle, checkInstr_eq_none_of_legal hlegal, hnext]

theorem step_of_cmdWrite_encode {i : Instr} {s : State} {es : List Event}
    (hev : s.events = .regWrite .word cmdOffset (encode i) :: es) : step s = exec i { s with events := es } :=
  (step_of_cons s _ es hev).trans (hostWrite_cmd_ok _ _ i (decode_encode i))

/-! ## The effect of a step -/

/-- All that a step of `s` that answers a next state can leave. -/
inductive StepEffect (s : State) : State → Prop
  /-- The event of an IDLE engine, or no event. -/
  | idleTurn (hidle : s.phase = .idle) (hnext : engineNext s.events = true) :
    StepEffect s { s with events := afterEngine s.events }
  /-- The end of the command in flight. -/
  | ended (i : Instr) (hfly : s.inFlight = some i) (hnext : engineNext s.events = true) :
    StepEffect s (finish i (passOf i) { s with events := afterEngine s.events })
  /-- A CMD write while BUSY. -/
  | overran (v : Word) (es : List Event) (hev : s.events = .regWrite .word cmdOffset v :: es) (hbusy : s.phase = .busy) :
    StepEffect s (overrun { s with events := es })
  /-- A CMD write of a word that fails a check. -/
  | rejected (v : Word) (es : List Event) (e : ErrCode) (hev : s.events = .regWrite .word cmdOffset v :: es)
    (hidle : s.phase = .idle) (hcheck : check (s.snapshotWith v) = some e) :
    StepEffect s (configError e (accept v { s with events := es }))
  /-- A CMD write of a legal command that ends in the same step. -/
  | ran (i : Instr) (es : List Event) (hev : s.events = .regWrite .word cmdOffset (encode i) :: es)
    (hruns : Runs i { s with events := es }) :
    StepEffect s (finish i (passOf i) (started i { s with events := es }))
  /-- A CMD write of a legal command that is then in flight. -/
  | launched (i : Instr) (es : List Event) (hev : s.events = .regWrite .word cmdOffset (encode i) :: es)
    (hidle : s.phase = .idle) (hlegal : Legal i (accepted i s)) :
    StepEffect s (start i (accept (encode i) { s with events := es }))
  /-- A host write to a listed register other than CMD. -/
  | regWrite (off : BitVec 8) (v : Word) (r : Reg) (es : List Event) (hev : s.events = .regWrite .word off v :: es)
    (hreg : regAt off = some r) (hcmd : r ≠ .cmd) : StepEffect s (writeReg r v { s with events := es })
  /-- A host write to an unlisted offset. -/
  | ignored (size : AccessSize) (off : BitVec 8) (v : Word) (es : List Event) (hev : s.events = .regWrite size off v :: es)
    (hreg : regAt off = none) : StepEffect s { s with events := es }
  /-- A host read of the register block. -/
  | regRead (size : AccessSize) (off : BitVec 8) (d : Word) (es : List Event) (hev : s.events = .regRead size off :: es) :
    StepEffect s { s with events := es, rdata := d }
  /-- An access to memory. -/
  | access (e : Event) (es : List Event) (t : State) (hev : s.events = e :: es) (hacc : e.isMemoryAccess = true)
    (heff : AccessEffect e { s with events := es } t) : StepEffect s t
  /-- Reset. -/
  | reset (es : List Event) (hev : s.events = .reset :: es) : StepEffect s (resetEvent { s with events := es })

theorem eq_cmdOffset_of_regAt {off : BitVec 8} (h : regAt off = some .cmd) : off = cmdOffset := by
  revert off
  decide

theorem stepEffect_of_cmdWrite {s t : State} {v : Word} {es : List Event}
    (hev : s.events = .regWrite .word cmdOffset v :: es) (hstep : step s = .next t) : StepEffect s t := by
  cases hp : s.phase with
  | busy =>
    have hover := hostWrite_cmd_of_busy (s := { s with events := es }) hp v
    cases hstep.symm.trans ((step_of_cons s _ es hev).trans hover)
    exact .overran v es hev hp
  | idle =>
    rcases check_snapshotWith_cases s v with ⟨e, hcheck⟩ | ⟨i, rfl, hlegal⟩
    · have herror := hostWrite_cmd_of_check_eq_some (v := v) (s := { s with events := es }) hp hcheck
      cases hstep.symm.trans ((step_of_cons s _ es hev).trans herror)
      exact .rejected v es e hev hp hcheck
    · rw [step_of_cmdWrite_encode hev] at hstep
      cases hnext : engineNext es with
      | true =>
        have hruns : Runs i { s with events := es } := ⟨hp, hnext, hlegal⟩
        cases hstep.symm.trans (exec_of_runs hruns)
        exact .ran i es hev hruns
      | false =>
        cases hstep.symm.trans (exec_of_not_engineNext (s := { s with events := es }) hp hnext hlegal)
        exact .launched i es hev hp hlegal

theorem stepEffect_of_regWrite {s t : State} {size : AccessSize} {off : BitVec 8} {v : Word} {es : List Event}
    (hev : s.events = .regWrite size off v :: es) (hstep : step s = .next t) : StepEffect s t := by
  have hrun : hostWrite size off v { s with events := es } = .next t := (step_of_cons s _ es hev).symm.trans hstep
  obtain rfl := size_eq_word_of_hostWrite_eq_next hrun
  cases hreg : regAt off with
  | none =>
    have hnone : t = { s with events := es } := by
      rcases hostWrite_cases .word off v { s with events := es } with ⟨-, h⟩ | ⟨_, h, -⟩ | ⟨_, h, -⟩ | ⟨_, -, h, -⟩ | ⟨-, h⟩
      · cases hrun.symm.trans h
      · cases hreg.symm.trans h
      · cases hreg.symm.trans h
      · cases hreg.symm.trans h
      · cases hrun.symm.trans h
        rfl
    rw [hnone]
    exact .ignored _ off v es hev hreg
  | some r =>
    by_cases hcmd : r = .cmd
    · subst hcmd
      obtain rfl := eq_cmdOffset_of_regAt hreg
      exact stepEffect_of_cmdWrite hev hstep
    · cases hstep.symm.trans (step_regWrite hev hreg hcmd)
      exact .regWrite off v r es hev hreg hcmd

theorem stepEffect_of_engineNext {s t : State} (hnext : engineNext s.events = true) (hstep : step s = .next t) :
    StepEffect s t := by
  cases hp : s.phase with
  | idle =>
    cases hstep.symm.trans (step_of_idle_engineNext hp hnext)
    exact .idleTurn hp hnext
  | busy =>
    cases hfly : s.inFlight with
    | none => cases hstep.symm.trans (step_of_busy_of_inFlight_eq_none hp hfly hnext)
    | some i =>
      cases hstep.symm.trans (step_of_engineNext s i hfly hnext)
      exact .ended i hfly hnext

theorem stepEffect_of_access {s t : State} {e : Event} {es : List Event} (hacc : e.isMemoryAccess = true)
    (hev : s.events = e :: es) (hstep : step s = .next t) : StepEffect s t := by
  obtain ⟨u, hrun, heff⟩ := runEvent_access hacc { s with events := es }
  cases hstep.symm.trans ((step_of_cons s e es hev).trans hrun)
  exact .access e es t hev hacc heff

theorem stepEffect_of_step {s t : State} (hstep : step s = .next t) : StepEffect s t := by
  cases hev : s.events with
  | nil => exact stepEffect_of_engineNext (by rw [hev]; rfl) hstep
  | cons e es =>
    cases e with
    | engine => exact stepEffect_of_engineNext (by rw [hev]; rfl) hstep
    | regWrite size off v => exact stepEffect_of_regWrite hev hstep
    | regRead size off =>
      obtain ⟨d, rfl⟩ := hostRead_frame size off _ t ((step_of_cons s _ es hev).symm.trans hstep)
      exact .regRead size off d es hev
    | reset =>
      cases hstep.symm.trans (step_of_cons s _ es hev)
      exact .reset es hev
    | _ => exact stepEffect_of_access rfl hev hstep

end Sys2Proof.Machine
end

section
/-! When the phase, the flags and memory change (10_state.md R52, R53; 60_exceptions.md R255; 70_reset_and_hazards.md R271). -/

namespace Sys2Proof.Machine

open Sys2Proof.Safety

theorem engineNext_iff (l : List Event) : engineNext l = true ↔ l = [] ∨ ∃ es, l = .engine :: es := by
  cases l with
  | nil => simp [engineNext]
  | cons e es => cases e <;> simp [engineNext]

theorem phase_of_inFlight {s : State} {i : Instr} (h : s.inFlight = some i) : s.phase = .busy :=
  ((inFlight_eq_some s i).1 h).1

/-! ## What a register write leaves -/

section
variable {r : Reg}

theorem writeReg_frame (hcmd : r ≠ .cmd) (v : Word) (s : State) :
    (writeReg r v s).phase = s.phase ∧ (writeReg r v s).cmd = s.cmd ∧ (writeReg r v s).snap = s.snap ∧
      (writeReg r v s).im = s.im ∧ (writeReg r v s).mem = s.mem ∧ (writeReg r v s).events = s.events := by
  cases r with
  | cmd => exact absurd rfl hcmd
  | _ => exact ⟨rfl, rfl, rfl, rfl, rfl, rfl⟩

theorem writeReg_flags (hcmd : r ≠ .cmd) (hstatus : r ≠ .status) (v : Word) (s : State) :
    (writeReg r v s).done = s.done ∧ (writeReg r v s).err = s.err ∧ (writeReg r v s).errCode = s.errCode ∧
      (writeReg r v s).ovr = s.ovr := by
  cases r with
  | cmd => exact absurd rfl hcmd
  | status => exact absurd rfl hstatus
  | _ => exact ⟨rfl, rfl, rfl, rfl⟩

end

/-! ## The flags, by the effect of a step -/

/-- The causes that clear the flag of a STATUS bit (10_state.md R52). -/
def ClearsFlag (bit : Nat) (s : State) : Prop :=
  (∃ v es, s.events = .regWrite .word 0x04 v :: es ∧ v.getLsbD bit = true) ∨
    (s.phase = .idle ∧ ∃ v, NextIsCmdWrite v s) ∨ ∃ es, s.events = .reset :: es

section
variable {s t : State}

theorem endsCommand_of_inFlight {i : Instr} (hfly : s.inFlight = some i) (hnext : engineNext s.events = true) :
    EndsCommand i s.snap s :=
  .inl ⟨hfly, rfl, hnext⟩

theorem endsCommand_of_runs {i : Instr} {es : List Event} (hev : s.events = .regWrite .word cmdOffset (encode i) :: es)
    (hruns : Runs i { s with events := es }) : EndsCommand i (accepted i s) s :=
  .inr ⟨hruns.idle, encode i, es, hev, decode_encode i, rfl, hruns.legal, hruns.next⟩

theorem StepEffect.done_cases (h : StepEffect s t) :
    t.done = s.done ∨
    (t.done = true ∧ ∃ i p, EndsCommand i p s ∧ busRefuses i { s with snap := p } = false) ∨
    (t.done = false ∧ ClearsFlag 1 s) := by
  cases h with
  | idleTurn | overran | ignored | regRead => exact .inl rfl
  | access e es t hev hacc heff => exact .inl heff.kept.done
  | ended i hfly hnext =>
    obtain ⟨-, hrefused, hadmitted⟩ := finish_flags i (passOf i) { s with events := afterEngine s.events }
    cases hb : busRefuses i s with
    | true => exact .inl (hrefused hb).1
    | false => exact .inr (.inl ⟨(hadmitted hb).1, i, s.snap, endsCommand_of_inFlight hfly hnext, hb⟩)
  | ran i es hev hruns =>
    obtain ⟨-, hrefused, hadmitted⟩ := finish_flags i (passOf i) (started i { s with events := es })
    cases hb : busRefuses i (started i { s with events := es }) with
    | true => exact .inr (.inr ⟨(hrefused hb).1, .inr (.inl ⟨hruns.idle, _, es, hev⟩)⟩)
    | false => exact .inr (.inl ⟨(hadmitted hb).1, i, accepted i s, endsCommand_of_runs hev hruns, hb⟩)
  | rejected v es e hev hidle => exact .inr (.inr ⟨rfl, .inr (.inl ⟨hidle, v, es, hev⟩)⟩)
  | launched i es hev hidle => exact .inr (.inr ⟨rfl, .inr (.inl ⟨hidle, _, es, hev⟩)⟩)
  | reset es hev => exact .inr (.inr ⟨rfl, .inr (.inr ⟨es, hev⟩)⟩)
  | regWrite off v r es hev hreg hcmd =>
    by_cases hstatus : r = .status
    · subst hstatus
      obtain rfl := eq_statusOffset_of_regAt hreg
      cases hbit : v.getLsbD 1 with
      | false => exact .inl (by simp only [writeReg, writeStatus, hbit, Bool.not_false, Bool.and_true])
      | true => exact .inr (.inr ⟨by simp only [writeReg, writeStatus, hbit, Bool.not_true, Bool.and_false], .inl ⟨v, es, hev, hbit⟩⟩)
    · exact .inl (writeReg_flags hcmd hstatus v _).1

theorem StepEffect.err_cases (h : StepEffect s t) :
    t.err = s.err ∨
    (s.phase = .idle ∧ ∃ v e, NextIsCmdWrite v s ∧ check (s.snapshotWith v) = some e ∧ t.errCode = e.code) ∨
    (t.err = true ∧ t.errCode = 8 ∧ ∃ i p, EndsCommand i p s ∧ busRefuses i { s with snap := p } = true) ∨
    (t.err = false ∧ ClearsFlag 2 s) := by
  cases h with
  | idleTurn | overran | ignored | regRead => exact .inl rfl
  | access e es t hev hacc heff => exact .inl heff.kept.err
  | ended i hfly hnext =>
    obtain ⟨-, hrefused, hadmitted⟩ := finish_flags i (passOf i) { s with events := afterEngine s.events }
    cases hb : busRefuses i s with
    | true =>
      obtain ⟨-, herr, hcode⟩ := hrefused hb
      exact .inr (.inr (.inl ⟨herr, hcode, i, s.snap, endsCommand_of_inFlight hfly hnext, hb⟩))
    | false => exact .inl (hadmitted hb).2.1
  | ran i es hev hruns =>
    obtain ⟨-, hrefused, hadmitted⟩ := finish_flags i (passOf i) (started i { s with events := es })
    cases hb : busRefuses i (started i { s with events := es }) with
    | true =>
      obtain ⟨-, herr, hcode⟩ := hrefused hb
      exact .inr (.inr (.inl ⟨herr, hcode, i, accepted i s, endsCommand_of_runs hev hruns, hb⟩))
    | false => exact .inr (.inr (.inr ⟨(hadmitted hb).2.1, .inr (.inl ⟨hruns.idle, _, es, hev⟩)⟩))
  | rejected v es e hev hidle hcheck => exact .inr (.inl ⟨hidle, v, e, ⟨es, hev⟩, hcheck, rfl⟩)
  | launched i es hev hidle => exact .inr (.inr (.inr ⟨rfl, .inr (.inl ⟨hidle, _, es, hev⟩)⟩))
  | reset es hev => exact .inr (.inr (.inr ⟨rfl, .inr (.inr ⟨es, hev⟩)⟩))
  | regWrite off v r es hev hreg hcmd =>
    by_cases hstatus : r = .status
    · subst hstatus
      obtain rfl := eq_statusOffset_of_regAt hreg
      cases hbit : v.getLsbD 2 with
      | false => exact .inl (by simp only [writeReg, writeStatus, hbit, Bool.not_false, Bool.and_true])
      | true => exact .inr (.inr (.inr ⟨by simp only [writeReg, writeStatus, hbit, Bool.not_true, Bool.and_false], .inl ⟨v, es, hev, hbit⟩⟩))
    · exact .inl (writeReg_flags hcmd hstatus v _).2.1

theorem StepEffect.ovr_cases (h : StepEffect s t) :
    t.ovr = s.ovr ∨ t.ovr = false ∨ (s.phase = .busy ∧ ∃ v, NextIsCmdWrite v s) := by
  cases h with
  | idleTurn | ignored | regRead | rejected | launched => exact .inl rfl
  | access e es t hev hacc heff => exact .inl heff.kept.ovr
  | ended i | ran i => exact .inl (finish_flags i (passOf i) _).1
  | overran v es hev hbusy => exact .inr (.inr ⟨hbusy, v, es, hev⟩)
  | reset => exact .inr (.inl rfl)
  | regWrite off v r es hev hreg hcmd =>
    by_cases hstatus : r = .status
    · subst hstatus
      cases hbit : v.getLsbD 3 with
      | false => exact .inl (by simp only [writeReg, writeStatus, hbit, Bool.not_false, Bool.and_true])
      | true => exact .inr (.inl (by simp only [writeReg, writeStatus, hbit, Bool.not_true, Bool.and_false]))
    · exact .inl (writeReg_ovr hstatus hcmd v _)

theorem StepEffect.phase_cases (h : StepEffect s t) :
    t.phase = s.phase ∨
    (t.phase = .busy ∧ ∃ v es i, s.events = .regWrite .word cmdOffset v :: es ∧ decode v = .ok i ∧
      Legal i (s.snapshotWith v)) ∨
    (t.phase = .idle ∧ (s.events = [] ∨ ∃ es, s.events = .engine :: es ∨ s.events = .reset :: es)) := by
  cases h with
  | idleTurn | overran | ignored | regRead | rejected => exact .inl rfl
  | access e es t hev hacc heff => exact .inl heff.kept.phase
  | regWrite off v r es hev hreg hcmd => exact .inl (writeReg_frame hcmd v _).1
  | launched i es hev hidle hlegal => exact .inr (.inl ⟨rfl, encode i, es, i, hev, decode_encode i, hlegal⟩)
  | ran i es hev hruns => exact .inl ((finish_phase i (passOf i) _).trans hruns.idle.symm)
  | reset es hev => exact .inr (.inr ⟨rfl, .inr ⟨es, .inr hev⟩⟩)
  | ended i hfly hnext =>
    refine .inr (.inr ⟨finish_phase i (passOf i) _, ?_⟩)
    rcases (engineNext_iff s.events).1 hnext with hev | ⟨es, hev⟩
    · exact .inl hev
    · exact .inr ⟨es, .inl hev⟩

end

/-- Settles O51: each flag and the phase change only in the cases of its lemma over `StepEffect`, and the event of an IDLE engine by
`step_of_idle_engineNext`. -/
theorem phaseChangesOnlyByRule : Obligations.PhaseChangesOnlyByRule := by
  refine ⟨fun s t hs hstep ht => ?_, fun s t hs hstep ht => ?_, fun s t hs hstep ht => ?_, fun s t hs hstep ht => ?_,
    fun s t hs hstep ht => ?_, fun s t hs hstep ht => ?_, fun s t hs hstep ht => ?_, fun s => step_of_idle_engineNext⟩
  · rcases (stepEffect_of_step hstep).phase_cases with h | ⟨-, h⟩ | ⟨h, -⟩
    · simp [hs, ht] at h
    · exact h
    · simp [ht] at h
  · rcases (stepEffect_of_step hstep).phase_cases with h | ⟨h, -⟩ | ⟨-, h⟩
    · simp [hs, ht] at h
    · simp [ht] at h
    · exact h
  · rcases (stepEffect_of_step hstep).done_cases with h | ⟨-, h⟩ | ⟨h, -⟩
    · simp [hs, ht] at h
    · exact h
    · simp [ht] at h
  · rcases (stepEffect_of_step hstep).err_cases with h | h | ⟨-, h⟩ | ⟨h, -⟩
    · simp [hs, ht] at h
    · exact .inl h
    · exact .inr h
    · simp [ht] at h
  · rcases (stepEffect_of_step hstep).ovr_cases with h | h | h
    · simp [hs, ht] at h
    · simp [ht] at h
    · exact h
  · rcases (stepEffect_of_step hstep).done_cases with h | ⟨h, -⟩ | ⟨-, h⟩
    · simp [hs, ht] at h
    · simp [ht] at h
    · exact h
  · rcases (stepEffect_of_step hstep).err_cases with h | ⟨hidle, v, -, hev, -⟩ | ⟨h, -⟩ | ⟨-, h⟩
    · simp [hs, ht] at h
    · exact .inr (.inl ⟨hidle, v, hev⟩)
    · simp [ht] at h
    · exact h

/-! ## Memory -/

/-- Settles O52: by the effect of the step; every effect but the named ones leaves memory as it is. -/
theorem memoryChangesOnlyByRule : Obligations.MemoryChangesOnlyByRule := by
  intro s t hstep hne
  cases stepEffect_of_step hstep with
  | idleTurn | overran | ignored | regRead | rejected | launched => exact absurd rfl hne
  | regWrite off v r es hev hreg hcmd =>
    obtain ⟨-, -, -, -, hmem, -⟩ := writeReg_frame hcmd v { s with events := es }
    exact absurd hmem hne
  | ran i es hev hruns => exact .inl ⟨hruns.idle, encode i, es, hev⟩
  | ended i hfly hnext =>
    refine .inr (.inl ⟨phase_of_inFlight hfly, ?_⟩)
    rcases (engineNext_iff s.events).1 hnext with hev | ⟨es, hev⟩
    · exact .inl hev
    · exact .inr ⟨es, .inl hev⟩
  | reset es hev =>
    cases hp : s.phase with
    | idle => exact absurd (by simp [resetEvent, resetMemory, State.inFlight, hp]) hne
    | busy => exact .inr (.inl ⟨rfl, .inr ⟨es, .inr hev⟩⟩)
  | access e es t hev hacc heff =>
    have hmem : t.mem = s.mem.writeAll (e.visibleStores s.posted) := heff.mem
    cases e with
    | regWrite | regRead | engine | reset => cases hacc
    | memLoad | memPost | memInvalidate => exact absurd hmem hne
    | memStore size a v => exact .inr (.inr (.inl ⟨size, a, v, es, .inl hev⟩))
    | otherStore size a v => exact .inr (.inr (.inl ⟨size, a, v, es, .inr hev⟩))
    | memFence => exact .inr (.inr (.inr ⟨es, .inl hev⟩))
    | memDrain => exact .inr (.inr (.inr ⟨es, .inr hev⟩))

end Sys2Proof.Machine
end

section
/-! The invariant of the machine: it holds after reset and every step keeps it (10_state.md R32, R34, R53, R56; 60_exceptions.md
R241, R250), and it rules out the stops of the model but the refused register access (logs 15 and 19). -/

namespace Sys2Proof.Machine

open Sys2Proof.Safety

/-! ## After reset -/

theorem reservedClear_reset : ReservedClear ConfigRegs.reset := by
  unfold ReservedClear
  decide

/-- Settles O48: field by field; no flag is set and the phase is IDLE. -/
theorem resetSatisfiesInvariant : Obligations.ResetSatisfiesInvariant where
  memory := State.reset_mem_wf
  regs := reservedClear_reset
  snap := reservedClear_reset
  irqEn := by decide
  ksel := by decide
  noCode := fun _ => rfl
  someCode := nofun
  exclusive := nofun
  busyFlags := nofun
  busyLegal := nofun
  cmdIsSnap := rfl

/-! ## Register writes -/

/-- Masking a written value clears the reserved bits. -/
theorem and_mask_and_not (v mask : Word) : v &&& mask &&& ~~~mask = 0 := by
  rw [BitVec.and_assoc, BitVec.and_not_self]
  exact BitVec.and_zero

section
variable {r : Reg}

theorem writeReg_reservedClear (hcmd : r ≠ .cmd) (v : Word) {s : State} (h : ReservedClear s.regs) :
    ReservedClear (writeReg r v s).regs := by
  obtain ⟨hss, hds, hcs, hb, hfx, hfy, hr, hw⟩ := h
  cases r with
  | cmd => exact absurd rfl hcmd
  | _ => refine ⟨?_, ?_, ?_, ?_, ?_, ?_, ?_, ?_⟩ <;> first | assumption | exact and_mask_and_not v _

theorem writeReg_irqEn_reserved (hcmd : r ≠ .cmd) (v : Word) {s : State} (h : s.irqEn &&& ~~~irqEnMask = 0) :
    (writeReg r v s).irqEn &&& ~~~irqEnMask = 0 := by
  cases r with
  | cmd => exact absurd rfl hcmd
  | irqEn => exact and_mask_and_not v _
  | _ => exact h

theorem writeReg_ksel_reserved (hcmd : r ≠ .cmd) (v : Word) {s : State} (h : s.ksel &&& ~~~kselMask = 0) :
    (writeReg r v s).ksel &&& ~~~kselMask = 0 := by
  cases r with
  | cmd => exact absurd rfl hcmd
  | ksel => exact and_mask_and_not v _
  | _ => exact h

end
end Sys2Proof.Machine

namespace Sys2Proof.Safety

open Sys2Proof.Machine

/-! ## What keeps the invariant -/

/-- The clauses of the invariant on the flags: ERR_CODE agrees with ERR, DONE and ERR exclude each other, and a BUSY engine has
neither (10_state.md R34, 60_exceptions.md R241, R250). -/
structure FlagsInv (s : State) : Prop where
  noCode : s.err = false → s.errCode = 0
  someCode : s.err = true → 1 ≤ s.errCode.toNat ∧ s.errCode.toNat ≤ 8
  exclusive : ¬(s.done = true ∧ s.err = true)
  busyFlags : s.phase = .busy → s.done = false ∧ s.err = false

section
variable {s t : State}

theorem MachineInv.flagsInv (h : MachineInv s) : FlagsInv s := ⟨h.noCode, h.someCode, h.exclusive, h.busyFlags⟩

/-- With no flag set the clauses on the flags hold in any phase. -/
theorem FlagsInv.of_clear (hdone : s.done = false) (herr : s.err = false) (hcode : s.errCode = 0) : FlagsInv s where
  noCode := fun _ => hcode
  someCode := by simp [herr]
  exclusive := by simp [hdone]
  busyFlags := fun _ => ⟨hdone, herr⟩

/-- An IDLE engine that has just completed. -/
theorem FlagsInv.of_done (hidle : s.phase = .idle) (herr : s.err = false) (hcode : s.errCode = 0) : FlagsInv s where
  noCode := fun _ => hcode
  someCode := by simp [herr]
  exclusive := by simp [herr]
  busyFlags := by simp [hidle]

theorem code_range (e : ErrCode) : 1 ≤ e.code.toNat ∧ e.code.toNat ≤ 8 := by
  cases e <;> decide

/-- An IDLE engine that has just reported an error. -/
theorem FlagsInv.of_error (hidle : s.phase = .idle) (hdone : s.done = false) (herr : s.err = true) (e : ErrCode)
    (hcode : s.errCode = e.code) : FlagsInv s where
  noCode := by simp [herr]
  someCode := fun _ => hcode ▸ code_range e
  exclusive := by simp [hdone]
  busyFlags := by simp [hidle]

/-- A STATUS write only clears flags, and ERR_CODE with ERR (10_state.md R35). -/
theorem flagsInv_writeStatus (h : FlagsInv s) (v : Word) : FlagsInv (writeStatus v s) := by
  obtain ⟨hno, hsome, hexcl, hbusy⟩ := h
  rw [writeStatus_eq_clear_if]
  constructor
  · cases v.getLsbD 2 with
    | true => exact fun _ => rfl
    | false => exact hno
  · cases v.getLsbD 2 with
    | true => exact nofun
    | false => exact hsome
  · cases v.getLsbD 1 <;> cases v.getLsbD 2 <;> simp_all
  · intro hp
    simp [hbusy hp]

theorem flagsInv_writeReg (h : FlagsInv s) {r : Reg} (hcmd : r ≠ .cmd) (v : Word) : FlagsInv (writeReg r v s) := by
  by_cases hstatus : r = .status
  · subst hstatus
    exact flagsInv_writeStatus h v
  · obtain ⟨hno, hsome, hexcl, hbusy⟩ := h
    obtain ⟨hdone, herr, hcode, -⟩ := writeReg_flags hcmd hstatus v s
    obtain ⟨hphase, -⟩ := writeReg_frame hcmd v s
    exact ⟨by rwa [herr, hcode], by rwa [herr, hcode], by rwa [hdone, herr], by rwa [hdone, herr, hphase]⟩

theorem MachineInv.of_registersKept (h : MachineInv s) (hk : RegistersKept s t) (hmem : t.mem.wf) : MachineInv t where
  memory := hmem
  regs := hk.regs ▸ h.regs
  snap := hk.snap ▸ h.snap
  irqEn := hk.irqEn ▸ h.irqEn
  ksel := hk.ksel ▸ h.ksel
  noCode := by rw [hk.err, hk.errCode]; exact h.noCode
  someCode := by rw [hk.err, hk.errCode]; exact h.someCode
  exclusive := by rw [hk.err, hk.done]; exact h.exclusive
  busyFlags := by rw [hk.err, hk.done, hk.phase]; exact h.busyFlags
  busyLegal := by rw [hk.phase, hk.snap]; exact h.busyLegal
  cmdIsSnap := by rw [hk.cmd, hk.snap]; exact h.cmdIsSnap

theorem machineInv_overrun (h : MachineInv s) : MachineInv (overrun s) :=
  ⟨h.memory, h.regs, h.snap, h.irqEn, h.ksel, h.noCode, h.someCode, h.exclusive, h.busyFlags, h.busyLegal, h.cmdIsSnap⟩

theorem machineInv_writeReg (h : MachineInv s) {r : Reg} (hcmd : r ≠ .cmd) (v : Word) : MachineInv (writeReg r v s) := by
  obtain ⟨hphase, hword, hsnap, -, hmem, -⟩ := writeReg_frame hcmd v s
  obtain ⟨hno, hsome, hexcl, hbusy⟩ := flagsInv_writeReg h.flagsInv hcmd v
  exact
    { memory := hmem ▸ h.memory
      regs := writeReg_reservedClear hcmd v h.regs
      snap := hsnap ▸ h.snap
      irqEn := writeReg_irqEn_reserved hcmd v h.irqEn
      ksel := writeReg_ksel_reserved hcmd v h.ksel
      noCode := hno, someCode := hsome, exclusive := hexcl, busyFlags := hbusy
      busyLegal := by rw [hphase, hsnap]; exact h.busyLegal
      cmdIsSnap := by rw [hword, hsnap]; exact h.cmdIsSnap }

/-- Acceptance takes the snapshot of registers whose reserved bits are 0. -/
theorem machineInv_configError (h : MachineInv s) (hidle : s.phase = .idle) (v : Word) (e : ErrCode) :
    MachineInv (configError e (accept v s)) := by
  obtain ⟨hno, hsome, hexcl, hbusy⟩ : FlagsInv (configError e (accept v s)) := .of_error hidle rfl rfl e rfl
  exact ⟨h.memory, h.regs, h.regs, h.irqEn, h.ksel, hno, hsome, hexcl, hbusy, fun hp => (nomatch hidle.symm.trans hp), rfl⟩

theorem machineInv_start (h : MachineInv s) {i : Instr} (hlegal : Legal i (accepted i s)) :
    MachineInv (start i (accept (encode i) s)) := by
  obtain ⟨hno, hsome, hexcl, hbusy⟩ : FlagsInv (start i (accept (encode i) s)) := .of_clear rfl rfl rfl
  have hcheck : check (accepted i s) = none := (check_eq_none_iff_legal (p := accepted i s) (decode_encode i)).2 hlegal
  exact ⟨h.memory, h.regs, h.regs, h.irqEn, h.ksel, hno, hsome, hexcl, hbusy, fun _ => hcheck, rfl⟩

/-- The flags are clear while BUSY, and the end of the command sets one of them. -/
theorem machineInv_finish (h : MachineInv s) (hbusy : s.phase = .busy) (i : Instr) (pass : State → List ByteStore) :
    MachineInv (finish i pass s) := by
  obtain ⟨hdone, herr⟩ := h.busyFlags hbusy
  have hidle := finish_phase i pass s
  obtain ⟨hcmd, hirq, hregs, hksel, hsnap, -⟩ := finish_frame i pass s
  obtain ⟨-, hrefused, hadmitted⟩ := finish_flags i pass s
  have hflags : FlagsInv (finish i pass s) := by
    cases hb : busRefuses i s with
    | true =>
      obtain ⟨hdone', herr', hcode'⟩ := hrefused hb
      exact .of_error hidle (hdone'.trans hdone) herr' .bus hcode'
    | false =>
      obtain ⟨-, herr', hcode'⟩ := hadmitted hb
      exact .of_done hidle (herr'.trans herr) (hcode'.trans (h.noCode herr))
  obtain ⟨hno, hsome, hexcl, hflag⟩ := hflags
  exact
    { memory := finish_mem_wf i pass s h.memory
      regs := hregs ▸ h.regs
      snap := hsnap ▸ h.snap
      irqEn := hirq ▸ h.irqEn
      ksel := hksel ▸ h.ksel
      noCode := hno, someCode := hsome, exclusive := hexcl, busyFlags := hflag
      busyLegal := fun hp => nomatch hidle.symm.trans hp
      cmdIsSnap := by rw [hcmd, hsnap]; exact h.cmdIsSnap }

theorem resetMemory_wf (h : s.mem.wf) : (resetMemory s).wf := by
  unfold resetMemory
  split
  · exact Memory.writeAll_wf _ _ h
  · exact h

theorem registersKept_resetEvent (s : State) : RegistersKept State.reset (resetEvent s) :=
  ⟨rfl, rfl, rfl, rfl, rfl, rfl, rfl, rfl, rfl, rfl⟩

/-- The events to come are no part of the invariant. -/
theorem machineInv_withEvents (h : MachineInv s) (es : List Event) : MachineInv { s with events := es } :=
  h.of_registersKept .of_notes h.memory

end

/-- Settles O49: by the effect of the step, each kept by its own lemma above. -/
theorem stepKeepsInvariant : Obligations.StepKeepsInvariant := by
  intro s t h hstep
  cases stepEffect_of_step hstep with
  | idleTurn => exact machineInv_withEvents h _
  | ended i hfly hnext =>
    exact machineInv_finish (machineInv_withEvents h (afterEngine s.events)) (phase_of_inFlight hfly) i (passOf i)
  | overran v es => exact machineInv_overrun (machineInv_withEvents h es)
  | rejected v es e hev hidle => exact machineInv_configError (machineInv_withEvents h es) hidle v e
  | ran i es hev hruns =>
    have hstart := machineInv_start (machineInv_withEvents h es) hruns.legal
    exact machineInv_finish (machineInv_withEvents hstart (afterEngine es)) rfl i (passOf i)
  | launched i es hev hidle hlegal => exact machineInv_start (machineInv_withEvents h es) hlegal
  | regWrite off v r es hev hreg hcmd => exact machineInv_writeReg (machineInv_withEvents h es) hcmd v
  | ignored size off v es => exact machineInv_withEvents h es
  | regRead size off d es => exact h.of_registersKept .of_notes h.memory
  | access e es t hev hacc heff =>
    exact (machineInv_withEvents h es).of_registersKept heff.kept (heff.mem ▸ Memory.writeAll_wf _ _ h.memory)
  | reset es =>
    exact resetSatisfiesInvariant.of_registersKept (registersKept_resetEvent _) (resetMemory_wf h.memory)

end Sys2Proof.Safety

namespace Sys2Proof.Machine

open Sys2Proof.Safety

/-! ## The stops -/

/-- The only register accesses that stop are those that are not aligned 32-bit accesses (10_state.md R32). -/
theorem mmioDefined_eq_false_iff (size : AccessSize) (off : BitVec 8) :
    mmioDefined size off = false ↔ size ≠ .word ∨ off.toNat % 4 ≠ 0 := by
  simp only [mmioDefined, Bool.and_eq_false_iff, beq_eq_false_iff_ne]

theorem hostWrite_of_not_mmioDefined {size : AccessSize} {off : BitVec 8} (h : mmioDefined size off = false) (v : Word)
    (s : State) : hostWrite size off v s = .refused .subWordMmio := by
  simp [hostWrite, h]

theorem hostRead_of_not_mmioDefined {size : AccessSize} {off : BitVec 8} (h : mmioDefined size off = false) (s : State) :
    hostRead size off s = .refused .subWordMmio := by
  simp [hostRead, h]

/-- Settles O42: the two accesses of the register block are refused before they look at the register. -/
theorem subWordAccessRefused : Obligations.SubWordAccessRefused := by
  intro s size off v es hsub
  have hundefined := (mmioDefined_eq_false_iff size off).2 hsub
  exact ⟨fun hev => (step_of_cons s _ es hev).trans (hostWrite_of_not_mmioDefined hundefined v _),
    fun hev => (step_of_cons s _ es hev).trans (hostRead_of_not_mmioDefined hundefined _)⟩

theorem hostWrite_of_mmioDefined {size : AccessSize} {off : BitVec 8} (h : mmioDefined size off = true) (v : Word)
    (s : State) : ∃ t, hostWrite size off v s = .next t := by
  rcases hostWrite_cases size off v s with ⟨hm, -⟩ | ⟨i, -, -, hw⟩ | ⟨_, -, -, hw⟩ | ⟨_, -, -, hw⟩ | ⟨-, hw⟩
  · cases h.symm.trans hm
  · exact ⟨_, hw.trans (exec_eq_command i s)⟩
  all_goals exact ⟨_, hw⟩

theorem hostRead_of_mmioDefined {size : AccessSize} {off : BitVec 8} (h : mmioDefined size off = true) (s : State) :
    ∃ t, hostRead size off s = .next t := by
  rw [hostRead, if_pos h]
  cases regAt off with
  | some r => exact ⟨_, rfl⟩
  | none => exact ⟨_, rfl⟩

/-- A state in which the end of a command, if it comes, is that of a command: the engine is IDLE or a command is in flight. -/
theorem MachineInv.idle_or_inFlight {s : State} (h : MachineInv s) : s.phase = .idle ∨ ∃ i, s.inFlight = some i := by
  cases hp : s.phase with
  | idle => exact .inl rfl
  | busy =>
    cases hd : decode s.snap.cmd with
    | ok i => exact .inr ⟨i, (inFlight_eq_some s i).2 ⟨hp, hd⟩⟩
    | error x => exact nomatch (check_of_decode_error hd).symm.trans (h.busyLegal hp)

theorem step_of_engineNext_of_inv {s : State} (h : MachineInv s) (hnext : engineNext s.events = true) :
    ∃ t, step s = .next t := by
  rcases MachineInv.idle_or_inFlight h with hidle | ⟨i, hfly⟩
  · exact ⟨_, step_of_idle_engineNext hidle hnext⟩
  · exact ⟨_, step_of_engineNext s i hfly hnext⟩

/-- From a state of the invariant a step goes on, but for a register access that is not an aligned 32-bit access. -/
theorem step_next_or_refused {s : State} (h : MachineInv s) :
    (∃ t, step s = .next t) ∨
    (step s = .refused .subWordMmio ∧ ∃ size off es, (size ≠ .word ∨ off.toNat % 4 ≠ 0) ∧
      ((∃ v, s.events = .regWrite size off v :: es) ∨ s.events = .regRead size off :: es)) := by
  cases hev : s.events with
  | nil => exact .inl (step_of_engineNext_of_inv h (by rw [hev]; rfl))
  | cons e es =>
    cases e with
    | engine => exact .inl (step_of_engineNext_of_inv h (by rw [hev]; rfl))
    | reset => exact .inl ⟨_, step_of_cons s _ es hev⟩
    | regWrite size off v =>
      cases hm : mmioDefined size off with
      | true =>
        obtain ⟨t, ht⟩ := hostWrite_of_mmioDefined hm v { s with events := es }
        exact .inl ⟨t, (step_of_cons s _ es hev).trans ht⟩
      | false =>
        have hsub := (mmioDefined_eq_false_iff size off).1 hm
        exact .inr ⟨(subWordAccessRefused s size off v es hsub).1 hev, size, off, es, hsub, .inl ⟨v, rfl⟩⟩
    | regRead size off =>
      cases hm : mmioDefined size off with
      | true =>
        obtain ⟨t, ht⟩ := hostRead_of_mmioDefined hm { s with events := es }
        exact .inl ⟨t, (step_of_cons s _ es hev).trans ht⟩
      | false =>
        have hsub := (mmioDefined_eq_false_iff size off).1 hm
        exact .inr ⟨(subWordAccessRefused s size off 0 es hsub).2 hev, size, off, es, hsub, .inr rfl⟩
    | _ =>
      obtain ⟨t, hstep, -⟩ := step_of_access rfl hev
      exact .inl ⟨t, hstep⟩

/-- Settles O50: `step_next_or_refused` leaves no fault, and names the refused access. -/
theorem invariantExcludesStops : Obligations.InvariantExcludesStops := by
  intro s h
  rcases step_next_or_refused h with ⟨t, hstep⟩ | ⟨hstep, haccess⟩
  · exact ⟨fun f hf => (nomatch hstep.symm.trans hf), fun f hf => (nomatch hstep.symm.trans hf)⟩
  · refine ⟨fun f hf => (nomatch hstep.symm.trans hf), fun f hf => ?_⟩
    cases hstep.symm.trans hf
    exact ⟨rfl, haccess⟩

end Sys2Proof.Machine
end

section
/-! The lifecycle of a command: the step that runs it, its acceptance, and its end by completion or by a bus error, in the step that
issues it or in flight (30_encoding.md R110, R111; 60_exceptions.md R247, R248; 70_reset_and_hazards.md R276, R277, R282). -/

namespace Sys2Proof.Machine

open Sys2Proof.Safety

/-- Settles O1: by the opcode map's words as those that decode, and the encoder's formula. -/
theorem decodeOpcodeMapWords : Obligations.DecodeOpcodeMapWords :=
  fun i => ⟨(decode_eq_ok_iff_eq_encWord _ i).2 rfl, encode_eq_encWord i⟩

/-! ## Issue -/

theorem step_of_cmdWrite {s : State} {v : Word} {i : Instr} {es : List Event}
    (hev : s.events = .regWrite .word cmdOffset v :: es) (hd : decode v = .ok i) : step s = exec i { s with events := es } :=
  (step_of_cons s _ es hev).trans (hostWrite_cmd_ok v _ i hd)

/-- Settles O3: the CMD write runs the command it decodes to; a word below 2^32 is placed as it is. -/
theorem stepRunsIssuedCommand : Obligations.StepRunsIssuedCommand := by
  refine ⟨fun s v i es hev hd _ => step_of_cmdWrite hev hd, fun s w i hw hd _ => ?_⟩
  refine step_of_cmdWrite (s := s.withFetchWord 32 w) (es := s.events) rfl ?_
  rwa [Nat.mod_eq_of_lt hw]

/-- Settles O8: the state is `start` of the accepted one, and `tainted` what `start` notes. -/
theorem acceptanceStartsCommand : Obligations.AcceptanceStartsCommand :=
  fun i s hidle hnext hlegal =>
    ⟨(start i (accept (encode i) s)).tainted, exec_of_not_engineNext hidle hnext hlegal⟩

theorem engineNext_cons_of_ne {e : Event} (h : e ≠ .engine) (es : List Event) : engineNext (e :: es) = false := by
  cases e with
  | engine => exact absurd rfl h
  | _ => rfl

/-- Settles O4: the end does not look at the events to come, and acceptance with another event next differs in the events only. -/
theorem deferredEndAgrees : Obligations.DeferredEndAgrees := by
  intro i s t e es hruns _ hne hexec
  have hstart : exec i { s with events := e :: es } = .next (start i (accept (encode i) { s with events := e :: es })) :=
    exec_of_not_engineNext (s := { s with events := e :: es }) hruns.idle (engineNext_cons_of_ne hne es) hruns.legal
  refine ⟨_, hstart, rfl, rfl, rfl, rfl, rfl, fun es' => ?_⟩
  cases hexec.symm.trans (exec_of_runs hruns)
  rw [← finish_events_congr i (started i s) es']
  exact step_of_engineNext { started i s with events := .engine :: es' } i
    ((inFlight_eq_some _ i).2 ⟨rfl, decode_encode i⟩) rfl

/-! ## The end -/

/-- Settles O9: the command is issued with the flags cleared, and its end sets one of them. -/
theorem commandEndsExactlyOneWay : Obligations.CommandEndsExactlyOneWay := by
  constructor
  · intro i s hruns
    obtain ⟨hcmd, hirq, hregs, hksel, -, hovr, -⟩ := finish_frame i (passOf i) (started i s)
    obtain ⟨-, hrefused, hadmitted⟩ := finish_flags i (passOf i) (started i s)
    refine ⟨_, exec_of_runs hruns, finish_phase i _ _, hcmd, hregs, hirq, hksel, hovr, ?_⟩
    cases hb : busRefuses i (started i s) with
    | true => exact .inr (hrefused hb)
    | false => exact .inl (hadmitted hb)
  · intro i s hfly hnext hdone herr hcode
    obtain ⟨hcmd, hirq, hregs, hksel, -, hovr, hevents, -⟩ :=
      finish_frame i (passOf i) { s with events := afterEngine s.events }
    obtain ⟨-, hrefused, hadmitted⟩ := finish_flags i (passOf i) { s with events := afterEngine s.events }
    refine ⟨_, step_of_engineNext s i hfly hnext, finish_phase i _ _, hcmd, hregs, hirq, hksel, hovr, hevents,
      fun hb => ?_, fun hb => ?_⟩
    · obtain ⟨hdone', herr', hcode'⟩ := hadmitted hb
      exact ⟨hdone', herr'.trans herr, hcode'.trans hcode⟩
    · obtain ⟨hdone', herr', hcode'⟩ := hrefused hb
      exact ⟨hdone'.trans hdone, herr', hcode'⟩

/-! ## The bus error -/

/-- A refused access that the command makes for certain is a refused access (60_exceptions.md R247). -/
theorem busRefuses_of_accessRefused {i : Instr} {s : State} (h : AccessRefused i s.snap s.busHoles) :
    busRefuses i s = true := by
  simp only [busRefuses, Bool.or_eq_true, Bool.and_eq_true]
  rcases h with ⟨q, hq, hneeded, hbus⟩ | ⟨hreads, a, ha, hbus⟩ | ⟨hdst, a, ha, hbus⟩ | ⟨hcbuf, a, ha, hbus⟩
  · exact .inl (.inl (List.any_eq_true.2 ⟨q, hq, by simp [hbus, hneeded]⟩))
  · exact .inl (.inr ⟨hreads, List.any_eq_true.2 ⟨a, ha, by simp [hbus]⟩⟩)
  · refine .inr ?_
    rw [refusesWrite, if_pos hdst]
    exact List.any_eq_true.2 ⟨a, ha, by simp [hbus]⟩
  · refine .inr ?_
    rw [refusesWrite, if_neg (by simp [hcbuf])]
    exact List.any_eq_true.2 ⟨a, ha, by simp [hbus]⟩

theorem finish_of_busRefuses {i : Instr} {s : State} (h : busRefuses i s = true) (pass : State → List ByteStore) :
    finish i pass s = busError i s := if_pos h

theorem finish_of_not_busRefuses {i : Instr} {s : State} (h : busRefuses i s = false) (pass : State → List ByteStore) :
    finish i pass s = complete i (pass s) s := by
  rw [finish, h, if_neg Bool.false_ne_true]

/-- A register other than STATUS shows the fields of the register block that no end of a command touches. -/
theorem readReg_congr {s t : State} (hcmd : t.cmd = s.cmd) (hirq : t.irqEn = s.irqEn) (hregs : t.regs = s.regs)
    (hksel : t.ksel = s.ksel) {r : Reg} (hstatus : r ≠ .status) : readReg r t = readReg r s := by
  cases r with
  | status => exact absurd rfl hstatus
  | _ => simp only [readReg, hcmd, hirq, hregs, hksel]

/-- Settles O10: the command's end is `busError`, which stores in the write footprint only. -/
theorem refusedAccessIsBusError : Obligations.RefusedAccessIsBusError := by
  constructor
  · intro i s hruns hmem hrefused
    have hb : busRefuses i (started i s) = true := busRefuses_of_accessRefused hrefused
    refine ⟨_, (exec_of_runs hruns).trans (congrArg Host.Outcome.next (finish_of_busRefuses hb _)), fun a ha => ?_⟩
    exact read8_freeStores_other s.mem s.draws _ a hmem ha
  · intro i s hfly hnext hmem hrefused
    have hb : busRefuses i { s with events := afterEngine s.events } = true := busRefuses_of_accessRefused hrefused
    refine ⟨_, (step_of_engineNext s i hfly hnext).trans (congrArg Host.Outcome.next (finish_of_busRefuses hb _)),
      rfl, rfl, rfl, rfl, rfl, fun r hr => readReg_congr (by rfl) (by rfl) (by rfl) (by rfl) hr, rfl, fun a ha => ?_⟩
    exact read8_freeStores_other s.mem s.draws _ a hmem ha

/-! ## Completion with unspecified results -/

/-- An admitted command completes, whatever disturbs its results, and stores in its write footprint only. -/
theorem exec_completes_of_busAdmits {i : Instr} {s : State} (hruns : Runs i s) (hbus : BusAdmits i s) (hmem : s.mem.wf) :
    ∃ m : Memory, exec i s = .next (completedState i s m) ∧
      ∀ a : Word, a ∉ writeFootprint i (accepted i s) → m.read8 a = s.mem.read8 a := by
  have hfinish := finish_of_not_busRefuses (busRefuses_started hbus) (passOf i)
  refine ⟨_, (exec_of_runs hruns).trans (congrArg Host.Outcome.next hfinish), fun a ha => ?_⟩
  exact read8_resultMemory_other i (started i s) a hmem ha

/-- Settles O57: overlap does not keep a command from completing. -/
theorem overlapStillCompletes : Obligations.OverlapStillCompletes :=
  fun _ _ hruns hbus hmem _ => exec_completes_of_busAdmits hruns hbus hmem

/-- Settles O58: nor do unseen stores or a device region. -/
theorem unseenInputsStillComplete : Obligations.UnseenInputsStillComplete :=
  fun _ _ hruns hbus hmem _ => exec_completes_of_busAdmits hruns hbus hmem

/-- Settles O23: the stores of the rule lie in the write footprint, which is apart from the read footprint. -/
theorem completionKeepsReadFootprint : Obligations.CompletionKeepsReadFootprint := by
  intro i s t h hexec a ha
  cases hexec.symm.trans (exec_of_canComplete h)
  refine Memory.read8_writeAll_other _ _ _ h.memory fun w hw hat => ?_
  have hwrite : w.1 ∈ writeFootprint i (accepted i s) := passOf_footprint i (started i s) w hw
  have hapart := List.any_eq_false.1 h.undisturbed.apart w.1 hwrite
  exact hapart (by simpa [hat] using ha)

/-! ## Reset -/

theorem resetMemory_of_inFlight_eq_none {s : State} (h : s.inFlight = none) : resetMemory s = s.mem := by
  rw [resetMemory, h]

theorem resetMemory_of_inFlight {s : State} {i : Instr} (h : s.inFlight = some i) :
    resetMemory s = s.mem.writeAll (freeStores s.draws (writeFootprint i s.snap)) := by
  rw [resetMemory, h]

/-- Settles O46: the register block of `resetEvent` is that of `State.reset`, and memory takes free values in the write footprint of a
command in flight only. -/
theorem resetEventClears : Obligations.ResetEventClears := by
  intro s es hev
  refine ⟨_, step_of_cons s _ es hev, rfl, (registersKept_resetEvent _).readReg_eq, rfl, irq_of_no_flags rfl rfl,
    fun hfly => resetMemory_of_inFlight_eq_none hfly, fun i hfly hmem a ha => ?_⟩
  have hreset : (resetEvent { s with events := es }).mem = s.mem.writeAll (freeStores s.draws (writeFootprint i s.snap)) :=
    resetMemory_of_inFlight hfly
  rw [hreset]
  exact read8_freeStores_other _ _ _ a hmem ha

end Sys2Proof.Machine
end

section
/-! The rounding of the 1-D paths against the 2-D path (42_single_ref.md R196, 43_compound.md R233, 90_conflicts.md C14) and the laws of
the blend unit (41_datapath.md R168, R169). -/

namespace Sys2Proof.Machine

open Sys2Proof.Safety

/-! ## A pass under the identity kernel is exact -/

/-- The sum of an identity kernel, rounded by at most its 7 bits. -/
theorem roundShift_two_pow_seven_mul (u : Int) {n : Nat} (h7 : n ≤ 7) : roundShift (2 ^ 7 * u) n = 2 ^ (7 - n) * u := by
  have hpow : (2 : Int) ^ 7 = 2 ^ n * 2 ^ (7 - n) := by rw [← pow_add, Nat.add_sub_cancel' h7]
  rw [hpow, mul_assoc, roundShift_two_pow_mul_self]

theorem shl_eq_two_pow_mul (a : Int) (n : Nat) : shl a n = 2 ^ n * a := mul_comm _ _

section
variable {p : Snapshot} {m : Memory} {r c : Int}

/-- With `px = 0` conv.sr.x writes the sample. -/
theorem singleX_eq_sample {st : Style} (hsx : styleOf p.sx = some st) (hpx : p.px = 0) (h7 : p.r0 ≤ 7) :
    singleX p m r c = sample p m r c := by
  obtain ⟨h0, h255⟩ := sample_range p m r c
  rw [singleX, hs_of_phase_zero hsx hpx, roundShift_two_pow_seven_mul _ h7, roundShift_two_pow_mul_self, clip8_of_range h0 h255]

/-- With `px = 0` the horizontal sum of kind X adds the exponents of the two shifts. -/
theorem predX_eq_predCopy {st : Style} (hsx : styleOf p.sx = some st) (hpx : p.px = 0) (h7 : p.r0 ≤ 7) (h7' : p.r1 ≤ 7) :
    predX p m r c = predCopy p m r c := by
  rw [predX, predCopy, hs_of_phase_zero hsx hpx, roundShift_two_pow_seven_mul _ h7, shl_eq_two_pow_mul, shl_eq_two_pow_mul,
    ← mul_assoc, ← pow_add, rb_eq, show 7 - p.r1 + (7 - p.r0) = 14 - p.r0 - p.r1 by omega]

/-- With `py = 0` the vertical pass only shifts the value of the horizontal one. -/
theorem vrPure_eq_predX {st : Style} (hsy : styleOf p.sy = some st) (hpy : p.py = 0) (h7 : p.r0 ≤ 7) (h7' : p.r1 ≤ 7) :
    vrPure p m r c = predX p m r c := by
  rw [vrPure_eq_ro_add (sum_taps_ky hsy) (by omega) (by omega), Snapshot.ky, selectKernel_of_styleOf hsy, hpy,
    tapSum_kernelOf_phase_zero, roundShift_two_pow_seven_mul _ h7', Nat.cast_ofNat, sub_add_cancel, predX, shl_eq_two_pow_mul,
    add_comm]

/-- With `px = 0` the horizontal pass only shifts the samples. -/
theorem vrPure_eq_predY {st st' : Style} (hsx : styleOf p.sx = some st) (hsy : styleOf p.sy = some st') (hpx : p.px = 0)
    (h7 : p.r0 ≤ 7) (h7' : p.r1 ≤ 7) : vrPure p m r c = predY p m r c := by
  have hexact (i : Int) : roundShift (hs p m i c) p.r0 = 2 ^ (7 - p.r0) * sample p m i c := by
    rw [hs_of_phase_zero hsx hpx, roundShift_two_pow_seven_mul _ h7]
  rw [vrPure_eq_ro_add (sum_taps_ky hsy) (by omega) (by omega)]
  simp only [hexact]
  rw [tapSum_const_mul, predY, shl_eq_two_pow_mul, add_comm]
  rfl

end

/-- Settles O34: the 2-D sample is that of X or Y by the lemmas of `halfPelAverage`, and X with `px = 0` is the sample. -/
theorem singlePathsAgree : Obligations.SinglePathsAgree := by
  intro p m r c hround hsx hsy
  obtain ⟨st, hsx⟩ := Option.isSome_iff_exists.1 hsx
  obtain ⟨st', hsy⟩ := Option.isSome_iff_exists.1 hsy
  have ⟨_, h7, _⟩ := hround
  refine ⟨fun hpx hpy => ?_, fun hpy => singleTwoDPure_eq_singleX hround hsy hpy m r c,
    fun hpx => singleTwoDPure_eq_singleY hround hsx hsy hpx m r c⟩
  rw [singleTwoDPure_eq_singleX hround hsy hpy, singleX_eq_sample hsx hpx h7]

/-- Settles O35: an identity kernel on one axis makes the pass of that axis a shift. -/
theorem compoundPathsAgree : Obligations.CompoundPathsAgree := by
  intro p m r c ⟨_, h7, _, h7', _⟩ hsx hsy
  obtain ⟨st, hsx⟩ := Option.isSome_iff_exists.1 hsx
  obtain ⟨st', hsy⟩ := Option.isSome_iff_exists.1 hsy
  refine ⟨fun hpx hpy => ?_, fun hpy => (vrPure_eq_predX hsy hpy h7 h7').symm,
    fun hpx => (vrPure_eq_predY hsx hsy hpx h7 h7').symm⟩
  rw [vrPure_eq_predX hsy hpy h7 h7', predX_eq_predCopy hsx hpx h7 h7']

/-! ## Two rounding stages against one -/

/-- The two floors of the two stages are one floor: the bias of the first stage is added to that of the single stage. -/
theorem roundShift_roundShift_eq (h : Int) {n : Nat} (h1 : 1 ≤ n) (h6 : n ≤ 6) :
    roundShift (roundShift h n) (7 - n) = (h + 64 + 2 ^ (n - 1)) / 128 := by
  have hbias : (2 : Int) ^ n * 2 ^ (7 - n - 1) = 64 := by
    rw [← pow_add, show n + (7 - n - 1) = 6 by omega]
    norm_num
  have hdiv : (2 : Int) ^ n * 2 ^ (7 - n) = 128 := by
    rw [← pow_add, show n + (7 - n) = 7 by omega]
    norm_num
  rw [roundShift_of_one_le _ (by omega : 1 ≤ 7 - n), roundShift_of_one_le h h1,
    ← Int.add_mul_ediv_left _ _ (by positivity : (2 : Int) ^ n ≠ 0), hbias, Int.ediv_ediv_of_nonneg (by positivity), hdiv]
  congr 1
  ring

/-- Settles O37: the two sides differ by the bias `2 ^ (r0 - 1)`, which passes a multiple of 128 exactly when the remainder of the sum
is that close to 64. -/
theorem twoStageRoundingDiffers : Obligations.TwoStageRoundingDiffers := by
  intro h r0 h1 h7
  have hsingle : roundShift h 7 = (h + 64) / 128 := roundShift_of_one_le h (by decide)
  obtain rfl | h6 := h7.eq_or_lt
  · simp
  · have hbias : 1 ≤ (2 : Int) ^ (r0 - 1) ∧ (2 : Int) ^ (r0 - 1) ≤ 32 := by
      constructor
      · exact one_le_pow₀ (by decide)
      · exact (pow_le_pow_right₀ (by decide) (by omega : r0 - 1 ≤ 5)).trans (by decide)
    rw [roundShift_roundShift_eq h h1 (by omega), hsingle]
    split_ifs <;> omega

/-! ## The blend unit -/

section
variable {p : Snapshot} {a b : Int}

theorem blendAvg_comm (a b : Int) : blendAvg a b = blendAvg b a := by
  rw [blendAvg, blendAvg, add_comm]

theorem blendJnt_eq (p : Snapshot) (a b : Int) : blendJnt p a b = (a * p.fwd + b * p.bck) / 16 := rfl

/-- The weighted sum lies between 16 times the least and the greatest operand. -/
theorem blendJnt_between (h : p.fwd + p.bck = 16) : min a b ≤ blendJnt p a b ∧ blendJnt p a b ≤ max a b := by
  have hweights : (p.fwd : Int) + p.bck = 16 := by exact_mod_cast h
  have hlow : min a b * 16 ≤ a * p.fwd + b * p.bck := by
    rw [← hweights, mul_add]
    exact add_le_add (mul_le_mul_of_nonneg_right (min_le_left a b) (by positivity))
      (mul_le_mul_of_nonneg_right (min_le_right a b) (by positivity))
  have hhigh : a * p.fwd + b * p.bck ≤ max a b * 16 := by
    rw [← hweights, mul_add]
    exact add_le_add (mul_le_mul_of_nonneg_right (le_max_left a b) (by positivity))
      (mul_le_mul_of_nonneg_right (le_max_right a b) (by positivity))
  rw [blendJnt_eq]
  omega

end

/-- Settles O39: the bounds by `blendJnt_between`, the special weights by their values. -/
theorem blendLaws : Obligations.BlendLaws := by
  refine ⟨blendAvg_comm, fun p a b h => ?_⟩
  obtain ⟨hlow, hhigh⟩ := blendJnt_between (a := a) (b := b) h
  refine ⟨hlow, hhigh, fun hf => ?_, fun hf => ?_, fun hf => ?_⟩ <;> rw [blendJnt_eq]
  · rw [show p.bck = 8 by omega, hf, blendAvg, asr]
    omega
  · rw [show p.bck = 0 by omega, hf]
    omega
  · rw [show p.bck = 16 by omega, hf]
    omega

end Sys2Proof.Machine
end

section
/-! The results of the commands (42_single_ref.md R191 to R196; 43_compound.md R221 to R233): what the rule of every command stores,
said once by its mode and its resolved kind, and the bytes of a legal block. -/

namespace Sys2Proof.Machine

open Sys2Proof.Safety

/-! ## What a command stores -/

/-- The kind of the commands of a datapath. -/
def directKind : Path → Kind
  | .copy => .copy
  | .x => .x
  | .y => .y
  | .twoD => .twoD

/-- The single-reference sample of a datapath (42_single_ref.md R191 to R194). -/
def pathSample : Path → Snapshot → Memory → Int → Int → Int
  | .copy => sample
  | .x => singleX
  | .y => singleY
  | .twoD => singleTwoDPure

/-- The compound prediction of a datapath (43_compound.md R212 to R215). -/
def pathPred : Path → Snapshot → Memory → Int → Int → Int
  | .copy => predCopy
  | .x => predX
  | .y => predY
  | .twoD => vrPure

/-- The value that a command of a mode and a datapath writes at a block position. -/
def pathValue : Mode → Path → Snapshot → Memory → Nat → Nat → Int
  | .sr, path, p, m, r, c => pathSample path p m r c
  | .cmp, path, p, m, r, c => pathPred path p m r c
  | .avg, path, p, m, r, c => avgOut (pathPred path) p m r c
  | .jnt, path, p, m, r, c => jntOut (pathPred path) p m r c

/-- The byte stores of the element that a command of a mode writes: a DST sample or a CBUF element (20_memory.md R77). -/
def writeElement : Mode → Snapshot → Nat → Nat → Int → List ByteStore
  | .cmp => writeCbuf
  | .sr | .avg | .jnt => writeDst

/-- The byte stores of a command of a mode and a datapath. -/
def blockStores (mode : Mode) (path : Path) (p : Snapshot) (m : Memory) : List ByteStore :=
  forBlock p fun r c => writeElement mode p r c (pathValue mode path p m r c)

/-- The rule of an AUTO command is that of the command its phases resolve to (30_encoding.md R108). -/
theorem passOf_eq_passOf_resolved (i : Instr) (s : State) :
    passOf i s = passOf (instrOf i.mode (directKind (s.snap.path i))) s := by
  cases i with
  | srAuto | cmpAuto | avgAuto | jntAuto =>
    simp only [passOf, srAutoPass, cmpAutoPass, avgAutoPass, jntAutoPass, Snapshot.path, Instr.kind, Instr.mode]
    cases resolve .auto s.snap.px s.snap.py <;> rfl
  | _ => rfl

/-- A 2-D loop may use the values on unbounded integers, as no entry of IM wraps. -/
theorem forBlock_vr_eq_vrPure {s : State} (h1 : 1 ≤ s.snap.r0) (h7 : s.snap.r0 ≤ 7) (f : Nat → Nat → Int → List ByteStore) :
    forBlock s.snap (fun r c => f r c (vr (horizontalPass s) r c)) =
      forBlock s.snap fun r c => f r c (vrPure s.snap s.mem r c) :=
  forBlock_congr _ _ _ fun r hr c hc => congrArg (f r c) (vr_horizontalPass_eq_vrPure h1 h7 hr hc)

theorem passOf_path_eq_blockStores (mode : Mode) (path : Path) {s : State} (h1 : 1 ≤ s.snap.r0) (h7 : s.snap.r0 ≤ 7) :
    passOf (instrOf mode (directKind path)) s = blockStores mode path s.snap s.mem := by
  cases path with
  | copy | x | y => cases mode <;> rfl
  | twoD =>
    cases mode with
    | sr => exact forBlock_vr_eq_vrPure h1 h7 fun r c v => writeDst s.snap r c (clip8 (roundShift (v - s.snap.ro) s.snap.rb))
    | cmp => exact forBlock_vr_eq_vrPure h1 h7 (writeCbuf s.snap)
    | avg =>
      exact forBlock_vr_eq_vrPure h1 h7 fun r c v =>
        writeDst s.snap r c (blendOut s.snap (blendAvg (existing s.snap s.mem r c) v))
    | jnt =>
      exact forBlock_vr_eq_vrPure h1 h7 fun r c v =>
        writeDst s.snap r c (blendOut s.snap (blendJnt s.snap (existing s.snap s.mem r c) v))

/-- Every legal rounding has `r0` in 1 .. 7. -/
theorem r0_range_of_legal {i : Instr} {p : Snapshot} (h : Legal i p) : 1 ≤ p.r0 ∧ p.r0 ≤ 7 := by
  obtain ⟨-, -, hround, -⟩ := h
  by_cases hmode : i.mode = .sr
  · obtain ⟨h1, h7, -⟩ : LegalRoundSr p := by simpa [Violates, hmode] using hround
    exact ⟨h1, h7⟩
  · obtain ⟨h1, h7, -⟩ : LegalRoundCompound p := by simpa [Violates, hmode] using hround
    exact ⟨h1, h7⟩

/-- What a legal command stores goes by its mode and its resolved kind. -/
theorem passOf_started_eq_blockStores {i : Instr} {s : State} (h : Legal i (accepted i s)) :
    passOf i (started i s) = blockStores i.mode ((accepted i s).path i) (accepted i s) s.mem := by
  obtain ⟨h1, h7⟩ := r0_range_of_legal h
  rw [passOf_eq_passOf_resolved]
  exact passOf_path_eq_blockStores _ _ (s := started i s) h1 h7

/-! ## The bytes of a DST block -/

section
variable {i : Instr} {p : Snapshot} {m : Memory} {P : Nat → Nat → Int}

/-- The SIZE and STRIDE checks keep the samples of a DST block apart (60_exceptions.md R243). -/
theorem dstAddr_injective_of_legal (h : Legal i p) (hmode : i.mode ≠ .cmp) {r c r' c' : Nat} (hr : r < p.h) (hc : c < p.w)
    (hr' : r' < p.h) (hc' : c' < p.w) (heq : dstAddr p r c = dstAddr p r' c') : r = r' ∧ c = c' := by
  obtain ⟨hsize, -, -, -, hstride, -⟩ := h
  obtain ⟨-, hw, -, hh⟩ := not_not.1 hsize
  have hrows : 1 < p.h → p.w ≤ p.dstStride := fun h1 =>
    not_lt.1 fun hlt => hstride ⟨h1, .inl ⟨hmode, hlt⟩⟩
  have hlt {q d : Nat} (hq : q < p.h) (hd : d < p.w) : q * p.dstStride + d < 2 ^ 32 := by
    have hstride16 : p.dstStride < 2 ^ 16 := (p.regs.dstStride.extractLsb' 0 16).isLt
    have hprod : q * p.dstStride ≤ 128 * 2 ^ 16 := Nat.mul_le_mul (hq.le.trans hh) hstride16.le
    omega
  have hoff : r * p.dstStride + c = r' * p.dstStride + c' := by
    have hnat := congrArg BitVec.toNat (add_left_cancel heq)
    rwa [BitVec.toNat_ofNat, BitVec.toNat_ofNat, Nat.mod_eq_of_lt (hlt hr hc), Nat.mod_eq_of_lt (hlt hr' hc')] at hnat
  exact element_offset_injective hc hc' (by omega) hoff

/-- The byte stores of a loop that writes DST samples. -/
def dstStores (p : Snapshot) (P : Nat → Nat → Int) : List ByteStore := forBlock p fun r c => writeDst p r c (P r c)

theorem mem_dstStores (p : Snapshot) (P : Nat → Nat → Int) (w : ByteStore) :
    w ∈ dstStores p P ↔ ∃ r < p.h, ∃ c < p.w, w = (dstAddr p r c, BitVec.ofInt 8 (P r c)) := by
  simp [dstStores, mem_forBlock]

theorem read8_dstStores (h : Legal i p) (hmode : i.mode ≠ .cmp) (hm : m.wf) {r c : Nat} (hr : r < p.h) (hc : c < p.w) :
    (m.writeAll (dstStores p P)).read8 (dstAddr p r c) = BitVec.ofInt 8 (P r c) := by
  refine Memory.read8_writeAll_of_mem m _ _ _ hm ((mem_dstStores _ _ _).2 ⟨r, hr, c, hc, rfl⟩) fun w hw hat => ?_
  obtain ⟨r', hr', c', hc', rfl⟩ := (mem_dstStores _ _ _).1 hw
  obtain ⟨rfl, rfl⟩ := dstAddr_injective_of_legal h hmode hr' hc' hr hc hat
  rfl

theorem read8_dstStores_other (hm : m.wf) {a : Word} (ha : ∀ r < p.h, ∀ c < p.w, a ≠ dstAddr p r c) :
    (m.writeAll (dstStores p P)).read8 a = m.read8 a := by
  refine Memory.read8_writeAll_other _ _ _ hm fun w hw hat => ?_
  obtain ⟨r, hr, c, hc, rfl⟩ := (mem_dstStores _ _ _).1 hw
  exact ha r hr c hc hat.symm

end

/-! ## Completion with the values of the rule -/

section
variable {i : Instr} {s : State} {f : Snapshot → Memory → Nat → Nat → Int}

theorem blockStores_eq_dstStores {mode : Mode} (hmode : mode ≠ .cmp) (path : Path) (p : Snapshot) (m : Memory) :
    blockStores mode path p m = dstStores p (pathValue mode path p m) := by
  cases mode with
  | cmp => exact absurd rfl hmode
  | _ => rfl

/-- A command of mode SR, AVG or JNT leaves the values of its resolved kind in DST and every other byte as it was. -/
theorem completesDst_of_pathValue (h : CanComplete i s) (hmode : i.mode ≠ .cmp)
    (hf : f (accepted i s) s.mem = pathValue i.mode ((accepted i s).path i) (accepted i s) s.mem) : CompletesDst i s f := by
  have hlegal := h.runs.legal
  have hpass : passOf i (started i s) = dstStores (accepted i s) (f (accepted i s) s.mem) := by
    rw [passOf_started_eq_blockStores hlegal, blockStores_eq_dstStores hmode, hf]
  refine ⟨_, exec_of_canComplete h, fun r hr c hc => ?_, fun a ha => ?_⟩ <;> rw [hpass]
  · exact read8_dstStores hlegal hmode h.memory hr hc
  · exact read8_dstStores_other h.memory ha

/-- A command of mode CMP leaves the predictions of its resolved kind in CBUF and every other byte as it was. -/
theorem completesCbuf_of_pathPred (h : CanComplete i s) (hmode : i.mode = .cmp)
    (hf : f (accepted i s) s.mem = pathValue .cmp ((accepted i s).path i) (accepted i s) s.mem) : CompletesCbuf i s f := by
  refine completesCbuf_of_passOf hmode h ?_
  rw [passOf_started_eq_blockStores h.runs.legal, hmode, hf]
  rfl

end

/-- Settles O11: the values of the resolved kinds COPY, X and Y of mode SR. -/
theorem srDirectResults : Obligations.SrDirectResults := fun _ =>
  ⟨fun h => completesDst_of_pathValue h (by decide) rfl, fun h => completesDst_of_pathValue h (by decide) rfl,
    fun h => completesDst_of_pathValue h (by decide) rfl⟩

/-- Settles O12: the value of the resolved kind 2D of mode SR. -/
theorem srTwoDResult : Obligations.SrTwoDResult := fun _ h => completesDst_of_pathValue h (by decide) rfl

/-- Settles O17: the values of the resolved kinds COPY, X and Y of mode AVG. -/
theorem avgDirectResults : Obligations.AvgDirectResults := fun _ =>
  ⟨fun h => completesDst_of_pathValue h (by decide) rfl, fun h => completesDst_of_pathValue h (by decide) rfl,
    fun h => completesDst_of_pathValue h (by decide) rfl⟩

/-- Settles O18: the value of the resolved kind 2D of mode AVG. -/
theorem avgTwoDResult : Obligations.AvgTwoDResult := fun _ h => completesDst_of_pathValue h (by decide) rfl

/-- Settles O20: the values of the resolved kinds COPY, X and Y of mode JNT. -/
theorem jntDirectResults : Obligations.JntDirectResults := fun _ =>
  ⟨fun h => completesDst_of_pathValue h (by decide) rfl, fun h => completesDst_of_pathValue h (by decide) rfl,
    fun h => completesDst_of_pathValue h (by decide) rfl⟩

/-- Settles O21: the value of the resolved kind 2D of mode JNT. -/
theorem jntTwoDResult : Obligations.JntTwoDResult := fun _ h => completesDst_of_pathValue h (by decide) rfl

/-! ## AUTO -/

/-- The table of 30_encoding.md R108 as an if-chain over the two phases. -/
theorem resolve_auto_eq_ite {α : Type} (f : Path → α) (px py : BitVec 4) :
    f (resolve .auto px py) =
      if px = 0 ∧ py = 0 then f .copy else if py = 0 then f .x else if px = 0 then f .y else f .twoD := by
  by_cases hx : px = 0 <;> by_cases hy : py = 0 <;>
    simp only [resolve, hx, hy, if_true, if_false, and_self, and_true, and_false]

theorem singleAuto_eq_pathSample (p : Snapshot) : singleAuto p = pathSample (resolve .auto p.px p.py) p := by
  funext m r c
  exact (resolve_auto_eq_ite (fun path => pathSample path p m r c) p.px p.py).symm

theorem predAuto_eq_pathPred (p : Snapshot) : predAuto p = pathPred (resolve .auto p.px p.py) p := by
  funext m r c
  exact (resolve_auto_eq_ite (fun path => pathPred path p m r c) p.px p.py).symm

/-- Settles O13: the sample of AUTO is that of the resolved kind. -/
theorem srAutoResult : Obligations.SrAutoResult := fun s h =>
  completesDst_of_pathValue h (by decide)
    (funext₂ fun r c => congrFun₂ (congrFun (singleAuto_eq_pathSample (accepted .srAuto s)) s.mem) r c)

/-- Settles O16: the prediction of AUTO is that of the resolved kind. -/
theorem cmpAutoResult : Obligations.CmpAutoResult := fun s h =>
  completesCbuf_of_pathPred h rfl
    (funext₂ fun r c => congrFun₂ (congrFun (predAuto_eq_pathPred (accepted .cmpAuto s)) s.mem) r c)

/-- The blend of a prediction looks at the prediction of its own snapshot only. -/
theorem avgOut_congr {pred pred' : Snapshot → Memory → Int → Int → Int} {p : Snapshot} (h : pred p = pred' p) :
    avgOut pred p = avgOut pred' p := by
  funext m r c
  rw [avgOut, avgOut, h]

theorem jntOut_congr {pred pred' : Snapshot → Memory → Int → Int → Int} {p : Snapshot} (h : pred p = pred' p) :
    jntOut pred p = jntOut pred' p := by
  funext m r c
  rw [jntOut, jntOut, h]

/-- Settles O19: the blend of the prediction of the resolved kind. -/
theorem avgAutoResult : Obligations.AvgAutoResult := fun s h =>
  completesDst_of_pathValue h (by decide) (congrFun (avgOut_congr (predAuto_eq_pathPred (accepted .avgAuto s))) s.mem)

/-- Settles O22: the weighted blend of the prediction of the resolved kind. -/
theorem jntAutoResult : Obligations.JntAutoResult := fun s h =>
  completesDst_of_pathValue h (by decide) (congrFun (jntOut_congr (predAuto_eq_pathPred (accepted .jntAuto s))) s.mem)

/-! ## The datapaths against the 2-D one -/

/-- The phases that a datapath does not use are 0. -/
def UnusedPhasesZero (path : Path) (p : Snapshot) : Prop := (path.usesX = false → p.px = 0) ∧ (path.usesY = false → p.py = 0)

section
variable {p : Snapshot} {path : Path}

/-- R196 and R233 as one statement over the datapaths: with the unused phases 0 every mode writes the value of the 2-D datapath. -/
theorem pathValue_eq_twoD {mode : Mode} (hphases : UnusedPhasesZero path p)
    (hround : if mode = .sr then LegalRoundSr p else LegalRoundCompound p) (hsx : (styleOf p.sx).isSome)
    (hsy : (styleOf p.sy).isSome) (m : Memory) : pathValue mode path p m = pathValue mode .twoD p m := by
  obtain ⟨hx, hy⟩ := hphases
  have hpred (h : LegalRoundCompound p) : pathPred path p = pathPred .twoD p := by
    funext m r c
    obtain ⟨hcopy, hpx, hpy⟩ := compoundPathsAgree p m r c h hsx hsy
    cases path with
    | copy => exact hcopy (hx rfl) (hy rfl)
    | x => exact hpx (hy rfl)
    | y => exact hpy (hx rfl)
    | twoD => rfl
  funext r c
  cases mode with
  | sr =>
    obtain ⟨hcopy, hpx, hpy⟩ := singlePathsAgree p m r c hround hsx hsy
    cases path with
    | copy => exact (hcopy (hx rfl) (hy rfl)).symm
    | x => exact (hpx (hy rfl)).symm
    | y => exact (hpy (hx rfl)).symm
    | twoD => rfl
  | cmp => exact congrFun₂ (congrFun (hpred hround) m) r c
  | avg => exact congrFun₂ (congrFun (avgOut_congr (hpred hround)) m) r c
  | jnt => exact congrFun₂ (congrFun (jntOut_congr (hpred hround)) m) r c

end

/-- What a command stores does not look at its word. -/
theorem blockStores_congr (mode : Mode) (path : Path) {p q : Snapshot} (h : p.regs = q.regs) (m : Memory) :
    blockStores mode path p m = blockStores mode path q m := by
  obtain ⟨g, v⟩ := p
  obtain ⟨g', w⟩ := q
  cases h
  cases mode <;> cases path <;> rfl

/-- A legal 2-D command uses both filters, so neither style is reserved. -/
theorem styles_of_legal_twoD {mode : Mode} {p : Snapshot} (h : Legal (instrOf mode .twoD) p) :
    (styleOf p.sx).isSome ∧ (styleOf p.sy).isSome := by
  have hpath : p.path (instrOf mode .twoD) = .twoD := by
    rw [Snapshot.path, kind_instrOf]
    rfl
  obtain ⟨-, hfilter, -⟩ := h
  rw [← filterFails_iff, hpath] at hfilter
  simpa [filterFails, Path.usesX, Path.usesY, ← Option.isSome_iff_ne_none] using hfilter

/-- Which datapath AUTO takes, and which phases the other kinds leave unused. -/
theorem unusedPhasesZero_of_kind {mode : Mode} {k : Kind} {p : Snapshot}
    (h : k = .auto ∨ (k = .copy ∧ p.px = 0 ∧ p.py = 0) ∨ (k = .x ∧ p.py = 0) ∨ (k = .y ∧ p.px = 0)) :
    UnusedPhasesZero (p.path (instrOf mode k)) p := by
  rw [Snapshot.path, kind_instrOf]
  rcases h with rfl | ⟨rfl, hx, hy⟩ | ⟨rfl, hy⟩ | ⟨rfl, hx⟩
  · by_cases hx : p.px = 0 <;> by_cases hy : p.py = 0 <;>
      simp only [UnusedPhasesZero, resolve, hx, hy, if_true, if_false, Path.usesX, Path.usesY, imp_self, and_self, reduceCtorEq]
  · exact ⟨fun _ => hx, fun _ => hy⟩
  · exact ⟨nofun, fun _ => hy⟩
  · exact ⟨fun _ => hx, nofun⟩

/-- Settles O36: both commands leave memory with the stores of their mode's loop, whose values agree by `pathValue_eq_twoD`. -/
theorem pathsMatchTwoD : Obligations.PathsMatchTwoD := by
  intro m k s hkind h h2
  have hlegal := h2.runs.legal
  obtain ⟨hsx, hsy⟩ := styles_of_legal_twoD hlegal
  have hround : if m = .sr then LegalRoundSr (accepted (instrOf m k) s) else LegalRoundCompound (accepted (instrOf m k) s) := by
    obtain ⟨-, -, hround, -⟩ := h.runs.legal
    rw [Violates, mode_instrOf] at hround
    split_ifs at hround ⊢ <;> exact not_not.1 hround
  have hstores : passOf (instrOf m k) (started (instrOf m k) s) = passOf (instrOf m .twoD) (started (instrOf m .twoD) s) := by
    have hvalue := pathValue_eq_twoD (unusedPhasesZero_of_kind (mode := m) hkind) hround hsx hsy s.mem
    have hpath : (accepted (instrOf m .twoD) s).path (instrOf m .twoD) = .twoD := by
      rw [Snapshot.path, kind_instrOf]
      rfl
    rw [passOf_started_eq_blockStores h.runs.legal, passOf_started_eq_blockStores hlegal, mode_instrOf, mode_instrOf, hpath,
      blockStores_congr m .twoD (p := accepted (instrOf m .twoD) s) (q := accepted (instrOf m k) s) rfl, blockStores, hvalue]
    rfl
  refine ⟨_, _, exec_of_canComplete h, exec_of_canComplete h2, ?_⟩
  exact congrArg s.mem.writeAll hstores

end Sys2Proof.Machine
end

section
/-! The register block as the host sees it: what a write leaves and a read returns (10_state.md R32 to R51), the word of STATUS (R34),
and that a command in flight does not look at the registers (R56). -/

namespace Sys2Proof.Machine

open Sys2Proof.Safety

/-! ## Writes and the reads after them -/

/-- The bits of a read-write register other than STATUS and CMD that are not reserved (10_state.md R37 to R49). -/
def configMask : Reg → Option Word
  | .irqEn => some irqEnMask
  | .srcBase | .dstBase | .cbufBase => some (BitVec.allOnes 32)
  | .srcStride | .dstStride | .cbufStride => some strideMask
  | .blkSize => some blkSizeMask
  | .filtX | .filtY => some filtMask
  | .round => some roundMask
  | .weight => some weightMask
  | .ksel => some kselMask
  | .id | .status | .cmd | .ktap01 | .ktap23 | .ktap45 | .ktap67 | .kinfo => none

section
variable {r : Reg} {mask : Word}

theorem ne_cmd_of_configMask (h : configMask r = some mask) : r ≠ .cmd := by
  rintro rfl
  cases h

theorem readReg_writeReg_same (h : configMask r = some mask) (v : Word) (s : State) :
    readReg r (writeReg r v s) = v &&& mask := by
  cases r with
  | id | status | cmd | ktap01 | ktap23 | ktap45 | ktap67 | kinfo => cases h
  | srcBase | dstBase | cbufBase =>
    cases h
    exact BitVec.and_allOnes.symm
  | _ =>
    cases h
    rfl

/-- A write reaches no other register, but KSEL selects what the readout shows (10_state.md R49). -/
theorem readReg_writeReg_other (h : configMask r = some mask) {q : Reg} (hne : q ≠ r)
    (hread : r = .ksel → q ≠ .ktap01 ∧ q ≠ .ktap23 ∧ q ≠ .ktap45 ∧ q ≠ .ktap67 ∧ q ≠ .kinfo) (v : Word) (s : State) :
    readReg q (writeReg r v s) = readReg q s := by
  cases r with
  | id | status | cmd | ktap01 | ktap23 | ktap45 | ktap67 | kinfo => cases h
  | ksel =>
    obtain ⟨h01, h23, h45, h67, hinfo⟩ := hread rfl
    cases q with
    | ksel => exact absurd rfl hne
    | ktap01 => exact absurd rfl h01
    | ktap23 => exact absurd rfl h23
    | ktap45 => exact absurd rfl h45
    | ktap67 => exact absurd rfl h67
    | kinfo => exact absurd rfl hinfo
    | _ => rfl
  | _ => cases q <;> first | exact absurd rfl hne | rfl

end

/-- The read-write registers other than STATUS and CMD: offset, register and mask (10_state.md R32, R37 to R49). -/
def configRows : List (BitVec 8 × Reg × Word) :=
  [(0x0C, .irqEn, 0x00000003), (0x10, .srcBase, 0xFFFFFFFF), (0x14, .srcStride, 0x0000FFFF), (0x18, .dstBase, 0xFFFFFFFF),
    (0x1C, .dstStride, 0x0000FFFF), (0x20, .cbufBase, 0xFFFFFFFF), (0x24, .cbufStride, 0x0000FFFF),
    (0x28, .blkSize, 0x00FF00FF), (0x2C, .filtX, 0x0000170F), (0x30, .filtY, 0x0000170F), (0x34, .round, 0x00000F0F),
    (0x38, .weight, 0x00001F1F), (0x40, .ksel, 0x0000070F)]

theorem regAt_and_mask_of_mem_configRows :
    ∀ row ∈ configRows, regAt row.1 = some row.2.1 ∧ configMask row.2.1 = some row.2.2 := by decide

/-- Settles O40: every row of the table lists its register at the offset, with the mask of its write. -/
theorem registerWriteReadBack : Obligations.RegisterWriteReadBack := by
  intro s off v es r mask hrow hev
  obtain ⟨hreg, hmask⟩ := regAt_and_mask_of_mem_configRows (off, r, mask) hrow
  have hcmd := ne_cmd_of_configMask hmask
  obtain ⟨hphase, -, hsnap, him, hmem, hevents⟩ := writeReg_frame hcmd v { s with events := es }
  have hkept : RegistersKept s { s with events := es } := .of_notes
  refine ⟨_, step_regWrite hev hreg hcmd, readReg_writeReg_same hmask v _, fun q hne hread => ?_, hphase, hsnap, him, hmem,
    hevents⟩
  exact (readReg_writeReg_other hmask hne hread v _).trans (hkept.readReg_eq q)

/-! ## Reads, and the writes that are ignored -/

theorem hostRead_reg {off : BitVec 8} {r : Reg} (h : regAt off = some r) (s : State) :
    hostRead .word off s = .next { s with rdata := readReg r s } := by
  simp only [hostRead, mmioDefined_word off (aligned_of_regAt off r h), if_true, h]

theorem hostRead_unlisted {off : BitVec 8} (h : regAt off = none) (haligned : off.toNat % 4 = 0) (s : State) :
    hostRead .word off s = .next { s with rdata := 0 } := by
  simp only [hostRead, mmioDefined_word off haligned, if_true, h]

theorem hostWrite_unlisted {off : BitVec 8} (h : regAt off = none) (haligned : off.toNat % 4 = 0) (v : Word) (s : State) :
    hostWrite .word off v s = .next s := by
  simp only [hostWrite, mmioDefined_word off haligned, if_true, h]

/-- The registers that ignore writes (10_state.md R33, R50, R51). -/
def isReadOnly : Reg → Bool
  | .id | .ktap01 | .ktap23 | .ktap45 | .ktap67 | .kinfo => true
  | _ => false

theorem writeReg_of_isReadOnly {r : Reg} (h : isReadOnly r = true) (v : Word) (s : State) : writeReg r v s = s := by
  cases r with
  | id | ktap01 | ktap23 | ktap45 | ktap67 | kinfo => rfl
  | _ => cases h

theorem regAt_of_mem_regTable : ∀ row ∈ regTable, regAt row.1 = some row.2 := by decide

/-- 0x3C and the offsets from 0x58 are not in the table (10_state.md R32). -/
theorem regAt_eq_none_of_unlisted : ∀ off : BitVec 8, off = 0x3C ∨ 0x58 ≤ off → regAt off = none := by decide

theorem isReadOnly_of_offset : ∀ off ∈ [(0x00 : BitVec 8), 0x44, 0x48, 0x4C, 0x50, 0x54],
    (regAt off).any isReadOnly = true := by decide

/-- Settles O41: by the table of registers and the offsets it leaves out; the bus accesses by `mmioOffset_base`. -/
theorem registerReadsAndIgnoredWrites : Obligations.RegisterReadsAndIgnoredWrites := by
  refine ⟨fun s off es r hrow hev => ?_, fun s off es haligned hun hev => ?_, fun s off v es haligned hoff hev => ?_,
    fun off size v => ?_⟩
  · have hreg : regAt off = some r := regAt_of_mem_regTable (off, r) hrow
    have hkept : RegistersKept s { s with events := es } := .of_notes
    rw [step_of_cons s _ es hev, runEvent, hostRead_reg hreg, hkept.readReg_eq r]
  · rw [step_of_cons s _ es hev, runEvent, hostRead_unlisted (regAt_eq_none_of_unlisted off hun) haligned]
  · rcases or_assoc.2 hoff with hun | hmem
    · exact (step_of_cons s _ es hev).trans (hostWrite_unlisted (regAt_eq_none_of_unlisted off hun) haligned v _)
    · obtain ⟨r, hreg, hro⟩ := (Option.any_eq_true _ _).1 (isReadOnly_of_offset off hmem)
      have hcmd : r ≠ .cmd := by
        rintro rfl
        cases hro
      rw [step_regWrite hev hreg hcmd, writeReg_of_isReadOnly hro]
  · simp only [hostLoadEvent, hostStoreEvent, mmioOffset_base, and_self]

/-! ## STATUS -/

/-- The word of STATUS from its fields (10_state.md R34). -/
def statusBits (code : BitVec 4) (ovr err done busy : Bool) : Word :=
  0#20 ++ code ++ 0#4 ++ BitVec.ofBool ovr ++ BitVec.ofBool err ++ BitVec.ofBool done ++ BitVec.ofBool busy

theorem statusWord_eq_statusBits (s : State) : statusWord s = statusBits s.errCode s.ovr s.err s.done s.busy := rfl

/-- Where each field lies, by the 256 values the fields can take. -/
theorem statusBits_fields : ∀ (code : BitVec 4) (ovr err done busy : Bool),
    (statusBits code ovr err done busy).getLsbD 0 = busy ∧ (statusBits code ovr err done busy).getLsbD 1 = done ∧
    (statusBits code ovr err done busy).getLsbD 2 = err ∧ (statusBits code ovr err done busy).getLsbD 3 = ovr ∧
    (statusBits code ovr err done busy).extractLsb' 4 4 = 0 ∧
    (statusBits code ovr err done busy).extractLsb' 8 4 = code ∧
    (statusBits code ovr err done busy).extractLsb' 12 20 = 0 := by
  decide

/-- Settles O44: the fields by `statusBits_fields`, the interrupt output by its definition on the bits. -/
theorem statusWordAndInterrupt : Obligations.StatusWordAndInterrupt := by
  intro s
  rw [readReg, statusWord_eq_statusBits]
  obtain ⟨hbusy, hdone, herr, hovr, hlow, hcode, hhigh⟩ := statusBits_fields s.errCode s.ovr s.err s.done s.busy
  refine ⟨?_, hdone, herr, hovr, hlow, hcode, hhigh, ?_, ?_, fun line hline => ?_⟩
  · rw [hbusy, State.busy]
    cases s.phase <;> rfl
  · rw [hdone, herr]
    rfl
  · simp [irqInput]
  · simp [irqInput, hline]

/-! ## The command in flight and the registers -/

/-- The state with other configuration registers, IRQ_EN and KSEL. -/
def withRegisters (regs : ConfigRegs) (irqEn ksel : Word) (s : State) : State :=
  { s with regs := regs, irqEn := irqEn, ksel := ksel }

/-- A write to a register other than STATUS and CMD reaches no more than these. -/
theorem writeReg_eq_withRegisters {r : Reg} (hcmd : r ≠ .cmd) (hstatus : r ≠ .status) (v : Word) (s : State) :
    ∃ regs irqEn ksel, writeReg r v s = withRegisters regs irqEn ksel s := by
  refine ⟨(writeReg r v s).regs, (writeReg r v s).irqEn, (writeReg r v s).ksel, ?_⟩
  cases r with
  | cmd => exact absurd rfl hcmd
  | status => exact absurd rfl hstatus
  | _ => rfl

/-- The end of a command looks at the snapshot, not at the registers (10_state.md R56). -/
theorem finish_withRegisters (i : Instr) (s : State) (regs : ConfigRegs) (irqEn ksel : Word) :
    finish i (passOf i) (withRegisters regs irqEn ksel s) = withRegisters regs irqEn ksel (finish i (passOf i) s) := by
  have hpass : passOf i (withRegisters regs irqEn ksel s) = passOf i s := passOf_congr i _ _ rfl rfl rfl
  cases hb : busRefuses i s with
  | true =>
    have hb' : busRefuses i (withRegisters regs irqEn ksel s) = true := hb
    rw [finish_of_busRefuses hb, finish_of_busRefuses hb']
    rfl
  | false =>
    have hb' : busRefuses i (withRegisters regs irqEn ksel s) = false := hb
    rw [finish_of_not_busRefuses hb, finish_of_not_busRefuses hb', hpass]
    rfl

/-- Settles O53: the end of the command is that without the write, with the written registers in place. -/
theorem snapshotIsolatesCommand : Obligations.SnapshotIsolatesCommand := by
  intro s u off v r es hbusy hreg hstatus hcmd hstep
  cases hfly : s.inFlight with
  | none =>
    have hfault := step_of_busy_of_inFlight_eq_none (s := { s with events := .engine :: es }) hbusy hfly rfl
    cases hstep.symm.trans hfault
  | some i =>
    cases hstep.symm.trans (step_of_engineNext { s with events := .engine :: es } i hfly rfl)
    obtain ⟨regs, irqEn, ksel, hwritten⟩ := writeReg_eq_withRegisters hcmd hstatus v { s with events := .engine :: es }
    have hwrite := step_regWrite (s := { s with events := .regWrite .word off v :: .engine :: es }) rfl hreg hcmd
    have hend := step_of_engineNext (withRegisters regs irqEn ksel { s with events := .engine :: es }) i hfly rfl
    have hsame := finish_withRegisters i { s with events := es } regs irqEn ksel
    exact ⟨_, _, hwrite.trans (congrArg Host.Outcome.next hwritten), hend.trans (congrArg Host.Outcome.next hsame),
      rfl, rfl, rfl, rfl, rfl, rfl⟩

end Sys2Proof.Machine
end

section
/-! Memory as the host and other agents see it, with no command in flight and with one (20_memory.md R72, R83, R84, R87). -/

namespace Sys2Proof.Machine

open Sys2Proof.Safety

/-! ## The bytes of a wider access -/

/-- Byte `k` of a word, least significant first (20_memory.md R72). -/
def byteOf (v : Word) (k : Nat) : Byte := v.extractLsb' (8 * k) 8

theorem ofInt_asr_eq_byteOf (v : Word) (k : Nat) : BitVec.ofInt 8 (asr (v.toNat : Int) (8 * k)) = byteOf v k := by
  have hshift : asr (v.toNat : Int) (8 * k) = ((v.toNat >>> (8 * k) : Nat) : Int) := by
    rw [asr, Nat.shiftRight_eq_div_pow]
    norm_cast
  rw [hshift, BitVec.ofInt_natCast, byteOf]
  rfl

theorem mem_storeBytes {size : AccessSize} {a v : Word} {w : ByteStore} :
    w ∈ storeBytes size a v ↔ ∃ k < size.bytes, w = (a + BitVec.ofNat 32 k, byteOf v k) := by
  simp only [storeBytes, memWrite, List.mem_map, List.mem_range, ofInt_asr_eq_byteOf, eq_comm (a := w)]

theorem bytes_le_four (size : AccessSize) : size.bytes ≤ 4 := by
  cases size <;> decide

/-- The bytes of an access lie at different addresses. -/
theorem byteAddr_injective {a : Word} {j k : Nat} (hj : j < 4) (hk : k < 4)
    (h : a + BitVec.ofNat 32 j = a + BitVec.ofNat 32 k) : j = k := by
  have hnat := congrArg BitVec.toNat (add_left_cancel h)
  rw [BitVec.toNat_ofNat, BitVec.toNat_ofNat] at hnat
  omega

/-- The stores of one access to an address all store the same byte. -/
theorem eq_byteOf_of_mem_storeBytes {size : AccessSize} {a v : Word} {w : ByteStore} {k : Nat} (hk : k < size.bytes)
    (hw : w ∈ storeBytes size a v) (hat : w.1 = a + BitVec.ofNat 32 k) : w.2 = byteOf v k := by
  obtain ⟨j, hj, rfl⟩ := mem_storeBytes.1 hw
  have hsize := bytes_le_four size
  rw [byteAddr_injective (by omega) (by omega) hat]

/-- Memory after a store reads each byte of the stored word at its address. -/
theorem read8_writeAll_storeBytes {m : Memory} (hm : m.wf) (size : AccessSize) (a v : Word) {k : Nat} (hk : k < size.bytes) :
    (m.writeAll (storeBytes size a v)).read8 (a + BitVec.ofNat 32 k) = byteOf v k :=
  Memory.read8_writeAll_of_mem m _ _ _ hm (mem_storeBytes.2 ⟨k, hk, rfl⟩) fun _ hw hat =>
    eq_byteOf_of_mem_storeBytes hk hw hat

/-- A list of pairs whose pairs with the key `a` all hold `b`. -/
theorem lookup_eq_some_of_forall {l : List ByteStore} {a : Word} {b : Byte} (hmem : (a, b) ∈ l)
    (hall : ∀ w ∈ l, w.1 = a → w.2 = b) : List.lookup a l = some b := by
  induction l with
  | nil => simp at hmem
  | cons w l ih =>
    obtain ⟨c, d⟩ := w
    by_cases hac : a = c
    · subst hac
      have hd : d = b := hall (a, d) (by simp) rfl
      simp [hd]
    · have hl : (a, b) ∈ l := by simpa [hac] using hmem
      rw [List.lookup_cons, beq_false_of_ne hac]
      exact ih hl fun w hw => hall w (List.mem_cons_of_mem _ hw)

/-- The host's latest posted store is what it sees (20_memory.md R84). -/
theorem postedAt_of_posted_append {s : State} {posted : List ByteStore} {size : AccessSize} {a v : Word}
    (h : s.posted = posted ++ storeBytes size a v) {k : Nat} (hk : k < size.bytes) :
    postedAt s (a + BitVec.ofNat 32 k) = some (byteOf v k) := by
  have hlast : List.lookup (a + BitVec.ofNat 32 k) (storeBytes size a v).reverse = some (byteOf v k) :=
    lookup_eq_some_of_forall (List.mem_reverse.2 (mem_storeBytes.2 ⟨k, hk, rfl⟩)) fun w hw hat =>
      eq_byteOf_of_mem_storeBytes hk (List.mem_reverse.1 hw) hat
  rw [postedAt, h, List.reverse_append, List.lookup_append, hlast]
  rfl

/-- A 16-bit load is little-endian. -/
theorem loadValue_half (a : Word) (s : State) : loadValue .half a s = (loadByte s (a + 1) ++ loadByte s a).setWidth 32 := by
  have hloads : loadValue .half a s =
      0#32 ||| (loadByte s a).setWidth 32 <<< 0 ||| (loadByte s (a + 1)).setWidth 32 <<< 8 := by
    simp [loadValue, AccessSize.bytes, List.range_succ]
  rw [hloads]
  ext k hk
  rw [BitVec.getElem_setWidth, BitVec.getLsbD_append]
  by_cases hlow : k < 8
  · simp [hlow]
  · simp [hlow, BitVec.getLsbD_of_ge (loadByte s a) k (by omega)]

/-- A 32-bit load of the four bytes of a word returns the word. -/
theorem loadValue_word_eq {a v : Word} {s : State} (h : ∀ k < 4, loadByte s (a + BitVec.ofNat 32 k) = byteOf v k) :
    loadValue .word a s = v := by
  have hloads : loadValue .word a s = 0#32 ||| (byteOf v 0).setWidth 32 <<< (8 * 0) ||| (byteOf v 1).setWidth 32 <<< (8 * 1) |||
      (byteOf v 2).setWidth 32 <<< (8 * 2) ||| (byteOf v 3).setWidth 32 <<< (8 * 3) := by
    rw [← h 0 (by decide), ← h 1 (by decide), ← h 2 (by decide), ← h 3 (by decide)]
    rfl
  rw [hloads]
  ext k hk
  simp only [byteOf, BitVec.getElem_or, BitVec.getElem_shiftLeft, BitVec.getElem_zero]
  interval_cases k <;> simp

/-! ## Loads and stores with no command in flight -/

theorem step_memLoad {s : State} {size : AccessSize} {a : Word} {es : List Event} (hev : s.events = .memLoad size a :: es) :
    step s = .next (memLoadEvent size a { s with events := es }) := step_of_cons s _ es hev

/-- The host's own store makes its bytes fresh (20_memory.md R83). -/
theorem not_mem_stale_memStoreEvent {size : AccessSize} {a v b : Word} (s : State)
    (hb : b ∈ (storeBytes size a v).map Prod.fst) : b ∉ (memStoreEvent size a v s).stale := by
  obtain ⟨-, -, -, -, -, -, -, -, -, -, -, -, -, hstale, -, -⟩ :=
    foldl_agentStore_frame (storeBytes size a v) (refresh ((storeBytes size a v).map Prod.fst) s)
  rw [memStoreEvent, hstale]
  simp only [refresh, List.mem_filter, List.contains_eq_mem, hb, decide_true, Bool.not_true, Bool.false_eq_true, and_false,
    not_false_eq_true]

/-- The step of a host store that is visible at once: its bytes are in memory, and the host's copies of them are fresh. -/
theorem step_memStore {s : State} {size : AccessSize} {a v : Word} {es : List Event}
    (hev : s.events = .memStore size a v :: es) :
    ∃ t, step s = .next t ∧ RegistersKept s t ∧ t.events = es ∧ t.mem = s.mem.writeAll (storeBytes size a v) ∧
      t.posted = s.posted ∧ ∀ w ∈ storeBytes size a v, w.1 ∉ t.stale := by
  obtain ⟨t, hstep, hkept, hevents, hmem, hposted⟩ := step_of_access rfl hev
  refine ⟨t, hstep, hkept, hevents, hmem, hposted, fun w hw => ?_⟩
  cases hstep.symm.trans (step_of_cons s _ es hev)
  exact not_mem_stale_memStoreEvent _ (List.mem_map_of_mem hw)

/-- With no command in flight and nothing posted, a byte that is not stale reads as memory holds it. -/
theorem loadByte_of_idle {s : State} {a : Word} (hidle : s.phase = .idle) (hposted : s.posted = []) (hfresh : a ∉ s.stale) :
    loadByte s a = s.mem.read8 a :=
  loadByte_quiet s a (postedAt_nil s a hposted) (inFlightWrites_of_idle s a hidle) hfresh

/-- The four bytes that a word store leaves alone are all the others. -/
theorem read8_writeAll_storeBytes_word_other {m : Memory} (hm : m.wf) {a v b : Word} (h0 : b ≠ a) (h1 : b ≠ a + 1)
    (h2 : b ≠ a + 2) (h3 : b ≠ a + 3) : (m.writeAll (storeBytes .word a v)).read8 b = m.read8 b := by
  refine Memory.read8_writeAll_other _ _ _ hm fun w hw hat => ?_
  obtain ⟨k, hk, rfl⟩ := mem_storeBytes.1 hw
  have hsize : k < 4 := hk
  interval_cases k
  · exact h0 (by simpa using hat.symm)
  · exact h1 hat.symm
  · exact h2 hat.symm
  · exact h3 hat.symm

theorem byteOf_zero (v : Word) : byteOf v 0 = v.setWidth 8 :=
  BitVec.eq_of_toNat_eq (by simp [byteOf])

/-- After an invalidation a byte of the range is no longer stale. -/
theorem not_mem_stale_memInvalidateEvent {lo hi a : Word} (hlo : lo ≤ a) (hhi : a ≤ hi) (s : State) :
    a ∉ (memInvalidateEvent lo hi s).stale := by
  simp [memInvalidateEvent, AddrRange.holds, hlo, hhi]

/-- Settles O54: the values by what a byte of a load can be on a quiet byte, the frames by `step_of_access`. -/
theorem hostStoreThenLoad : Obligations.HostStoreThenLoad := by
  refine ⟨fun s a v es hidle hposted hmem hev => ?_, fun s lo hi a es hidle hposted hlo hhi hev => ?_,
    fun s a es hidle hposted hev => ?_, fun s e es hev he => ?_, fun s e size a v es hev he => ?_⟩
  · obtain ⟨t, hstep, hkept, hevents, hstored, hqueue, hfresh⟩ := step_memStore hev
    have hload (k : Nat) (hk : k < 4) : loadByte { t with events := es } (a + BitVec.ofNat 32 k) = byteOf v k := by
      have hquiet := loadByte_of_idle (s := { t with events := es }) (hkept.phase.trans hidle) (hqueue.trans hposted)
        (hfresh _ (mem_storeBytes.2 ⟨k, hk, rfl⟩))
      rw [hquiet, hstored]
      exact read8_writeAll_storeBytes hmem .word a v hk
    have hlow : t.mem.read8 a = v.setWidth 8 := by
      rw [hstored, ← byteOf_zero]
      simpa using read8_writeAll_storeBytes hmem .word a v (k := 0) (by decide)
    refine ⟨t, _, hstep, step_memLoad hevents, loadValue_word_eq hload, hlow, fun b h0 h1 h2 h3 => ?_, fun r => ?_, hkept.phase,
      hkept.snap, rfl⟩
    · exact (congrArg (Memory.read8 · b) hstored).trans (read8_writeAll_storeBytes_word_other hmem h0 h1 h2 h3)
    · exact (RegistersKept.readReg_eq (s := t) .of_notes r).trans (hkept.readReg_eq r)
  · refine ⟨_, _, step_of_cons s _ _ hev, step_memLoad rfl, ?_, rfl, fun r => ?_, rfl, rfl, rfl⟩
    · have hfresh := not_mem_stale_memInvalidateEvent hlo hhi s
      exact (loadValue_byte a _).trans (congrArg (BitVec.setWidth 32)
        (loadByte_of_idle (s := { memInvalidateEvent lo hi s with events := es }) hidle hposted hfresh))
    · exact RegistersKept.readReg_eq .of_notes r
  · refine ⟨_, step_memLoad hev, rfl, ?_⟩
    rcases loadByte_cases { s with events := es } a (postedAt_nil _ a hposted) with h | ⟨hw, -⟩ | ⟨-, hstale⟩
    · exact .inl ((loadValue_byte a _).trans (congrArg (BitVec.setWidth 32) h))
    · cases (inFlightWrites_of_idle { s with events := es } a hidle).symm.trans hw
    · exact .inr hstale
  · rcases he with ⟨size, a, rfl⟩ | ⟨lo, hi, rfl⟩ <;>
    · obtain ⟨t, hstep, hkept, hevents, hmem, -⟩ := step_of_access rfl hev
      exact ⟨t, hstep, hmem, hkept.readReg_eq, hkept.phase, hkept.snap, hevents⟩
  · rcases he with rfl | rfl <;>
    · obtain ⟨t, hstep, hkept, hevents, hmem, -⟩ := step_of_access rfl hev
      exact ⟨t, hstep, hmem, hkept.readReg_eq, hkept.phase, hkept.snap, hevents⟩

/-! ## Posted stores -/

/-- Settles O55: the queue and memory by `step_of_access`, the host's own load by the latest posted byte. -/
theorem postedStoresBecomeVisible : Obligations.PostedStoresBecomeVisible := by
  refine ⟨fun s size a v es hev => ?_, fun s a v es hev => ?_, fun s es hev => ?_, fun s w ws es hposted hev => ?_⟩
  · obtain ⟨t, hstep, hkept, hevents, hmem, hqueue⟩ := step_of_access rfl hev
    exact ⟨t, hstep, hmem, hqueue, hkept.readReg_eq, hkept.phase, hkept.snap, hevents⟩
  · obtain ⟨t, hstep, -, hevents, hmem, hqueue⟩ := step_of_access rfl hev
    exact ⟨t, _, hstep, step_memLoad hevents,
      loadValue_word_eq fun k hk => loadByte_of_posted _ _ _ (postedAt_of_posted_append hqueue hk), hmem⟩
  · obtain ⟨t, hstep, hkept, hevents, hmem, hqueue⟩ := step_of_access rfl hev
    exact ⟨t, hstep, hmem, hqueue, hkept.readReg_eq, hkept.phase, hkept.snap, hevents⟩
  · obtain ⟨t, hstep, hkept, hevents, hmem, hqueue⟩ := step_of_access rfl hev
    rw [hposted] at hmem hqueue
    exact ⟨t, hstep, hmem, hqueue, hkept.readReg_eq, hkept.phase, hkept.snap, hevents⟩

end Sys2Proof.Machine
end

section
/-! Memory while a command is in flight: early reads, and stores of the host or another agent into its footprints
(70_reset_and_hazards.md R275, R276, R278; 20_memory.md R79, R83, R84, R87). -/

namespace Sys2Proof.Machine

open Sys2Proof.Safety

/-! ## Early reads -/

section
variable {s : State} {i : Instr}

/-- The new byte that an early read may see is a byte of the result, which does not look at the events to come. -/
theorem newByte_withEvents (hfly : s.inFlight = some i) (es : List Event) (a : Word) :
    newByte { s with events := es } a = (resultMemory i (passOf i s) s).read8 a := by
  have hfly' : ({ s with events := es } : State).inFlight = some i := hfly
  simp only [newByte, hfly', passOf_congr i { s with events := es } s rfl rfl rfl]
  rfl

/-- A byte of the write footprint is old or new, by the choice for its element. -/
theorem loadByte_of_inFlightWrites {a : Word} (hposted : postedAt s a = none) (hw : inFlightWrites s a = true) :
    loadByte s a = if Config.seesNew s.draws (elementOf s a) then newByte s a else s.mem.read8 a := by
  simp only [loadByte, hposted, hw, if_true]

/-! ## The two bytes of an element -/

theorem getElem_one_of_pos {k : Nat} (hk : k < 32) (hpos : 0 < k) : (1 : Word)[k] = false := by
  simp only [BitVec.ofNat_eq_ofNat, BitVec.getElem_one, decide_eq_false_iff_not]
  omega

section
variable {a : Word}

theorem and_not_one_of_even (h : a.getLsbD 0 = false) : a &&& ~~~1 = a := by
  ext k hk
  obtain rfl | hpos := Nat.eq_zero_or_pos k
  · simpa using h.symm
  · rw [BitVec.getElem_and, BitVec.getElem_not, getElem_one_of_pos hk hpos, Bool.not_false, Bool.and_true]

theorem add_one_eq_or_one_of_even (h : a.getLsbD 0 = false) : a + 1 = a ||| 1 := by
  refine BitVec.add_eq_or_of_and_eq_zero a 1 ?_
  ext k hk
  obtain rfl | hpos := Nat.eq_zero_or_pos k
  · simpa using h
  · rw [BitVec.getElem_and, getElem_one_of_pos hk hpos, Bool.and_false, BitVec.getElem_zero]

/-- Both bytes of an element at an even address belong to it. -/
theorem add_one_and_not_one_of_even (h : a.getLsbD 0 = false) : (a + 1) &&& ~~~1 = a := by
  rw [add_one_eq_or_one_of_even h, BitVec.and_or_distrib_right, and_not_one_of_even h, BitVec.and_not_self]
  exact BitVec.or_zero

end

/-- The ALIGN check keeps the elements at even addresses (60_exceptions.md R243, 20_memory.md R74). -/
theorem cbufAddr_even {p : Snapshot} (h : p.regs.cbufBase.getLsbD 0 = false) (r c : Nat) :
    (cbufAddr p r c).getLsbD 0 = false := by
  have hbase : p.regs.cbufBase.toNat % 2 = 0 := by
    rw [BitVec.getLsbD, Nat.testBit_zero] at h
    simpa using h
  rw [BitVec.getLsbD, Nat.testBit_zero, cbufAddr, BitVec.toNat_add, BitVec.toNat_ofNat, decide_eq_false_iff_not]
  omega

theorem elementOf_of_cmp (hfly : s.inFlight = some i) (hmode : i.mode = .cmp) (a : Word) : elementOf s a = a &&& ~~~1 := by
  simp [elementOf, hfly, hmode, Mode.writesDst]

/-- A CBUF element of the command in flight is even, and both its bytes lie in the write footprint. -/
theorem cbufElement_of_mem (hfly : s.inFlight = some i) (hmode : i.mode = .cmp) (hcheck : check s.snap = none) {a : Word}
    (ha : a ∈ cbufElements s.snap) :
    a.getLsbD 0 = false ∧ inFlightWrites s a = true ∧ inFlightWrites s (a + 1) = true := by
  obtain ⟨-, hdecode⟩ := (inFlight_eq_some s i).1 hfly
  obtain ⟨-, -, -, -, -, halign⟩ := (check_eq_none_iff_legal hdecode).1 hcheck
  have hbase : s.snap.regs.cbufBase.getLsbD 0 = false := by simpa [Violates, hmode] using halign
  have hfoot (b : Word) (hb : b ∈ cbufBytes s.snap) : inFlightWrites s b = true :=
    (inFlightWrites_iff s i b hfly).2 (by simpa [writeFootprint, hmode, Mode.writesDst] using hb)
  obtain ⟨r, hr, c, hc, rfl⟩ := (mem_cbufElements _ _).1 ha
  exact ⟨cbufAddr_even hbase r c, hfoot _ ((mem_cbufBytes _ _).2 ⟨r, hr, c, hc, .inl rfl⟩),
    hfoot _ ((mem_cbufBytes _ _).2 ⟨r, hr, c, hc, .inr rfl⟩)⟩

/-- A 16-bit load of an element makes one choice for both its bytes. -/
theorem loadValue_half_of_cbufElement (hfly : s.inFlight = some i) (hposted : s.posted = []) (hmode : i.mode = .cmp)
    (hcheck : check s.snap = none) {a : Word} (ha : a ∈ cbufElements s.snap) (es : List Event) :
    loadValue .half a { s with events := es } = (s.mem.read16 a).setWidth 32 ∨
      loadValue .half a { s with events := es } = ((resultMemory i (passOf i s) s).read16 a).setWidth 32 := by
  obtain ⟨heven, hlow, hhigh⟩ := cbufElement_of_mem hfly hmode hcheck ha
  have hload (b : Word) (hw : inFlightWrites s b = true) (helem : b &&& ~~~1 = a) :
      loadByte { s with events := es } b =
        if Config.seesNew s.draws a then (resultMemory i (passOf i s) s).read8 b else s.mem.read8 b := by
    rw [loadByte_of_inFlightWrites (s := { s with events := es }) (postedAt_nil _ b hposted) hw,
      elementOf_of_cmp (s := { s with events := es }) hfly hmode, helem, newByte_withEvents hfly]
  rw [loadValue_half, hload a hlow (and_not_one_of_even heven), hload (a + 1) hhigh (add_one_and_not_one_of_even heven)]
  cases Config.seesNew s.draws a with
  | true => exact .inr rfl
  | false => exact .inl rfl

end

/-- Settles O56: a byte by the cases of `loadByte_cases`, an element by the one choice for its two bytes. -/
theorem earlyReadSeesOldOrNew : Obligations.EarlyReadSeesOldOrNew := by
  intro s i a es hfly hposted hcheck
  have hkept (size : AccessSize) : RegistersKept s (memLoadEvent size a { s with events := es }) := .of_notes
  refine ⟨fun hev => ?_, fun hmode ha hev => ?_⟩
  · refine ⟨_, step_memLoad hev, ?_, rfl, (hkept _).readReg_eq, rfl, rfl, rfl⟩
    have hrdata : (memLoadEvent .byte a { s with events := es }).rdata = (loadByte { s with events := es } a).setWidth 32 :=
      loadValue_byte a _
    rw [hrdata, ← inFlightWrites_iff s i a hfly]
    rcases loadByte_cases { s with events := es } a (postedAt_nil _ a hposted) with h | ⟨hw, h⟩ | ⟨hw, hstale⟩
    · exact .inl (congrArg (BitVec.setWidth 32) h)
    · exact .inr (.inl ⟨hw, congrArg (BitVec.setWidth 32) (h.trans (newByte_withEvents hfly es a))⟩)
    · exact .inr (.inr ⟨fun h => Bool.false_ne_true (hw.symm.trans h), hstale⟩)
  · exact ⟨_, step_memLoad hev, loadValue_half_of_cbufElement hfly hposted hmode hcheck ha es, rfl, (hkept _).readReg_eq, rfl,
      rfl, rfl⟩

/-! ## A byte store while a command is in flight -/

/-- The byte stores that the host, visibly or posted, or another agent can make at an address. -/
def IsByteStore (e : Event) (a v : Word) : Prop := e = .memStore .byte a v ∨ e = .otherStore .byte a v ∨ e = .memPost .byte a v

/-- What a byte store leaves: it is noted against the footprints of the command in flight, and memory holds it unless it is posted. -/
structure NotedStore (e : Event) (a v : Word) (s t : State) : Prop where
  kept : RegistersKept s t
  draws : t.draws = s.draws
  busHoles : t.busHoles = s.busHoles
  mem : t.mem = if e = .memPost .byte a v then s.mem else s.mem.write8 a (v.setWidth 8)
  tainted : t.tainted = (s.tainted || inFlightReads s a)
  raced : t.raced = if inFlightWrites s a then a :: s.raced else s.raced

section
variable {e : Event} {a v : Word}

theorem memStoreEvent_byte (s : State) : memStoreEvent .byte a v s = agentStore (refresh [a] s) (a, v.setWidth 8) := by
  rw [memStoreEvent, storeBytes_byte]
  rfl

theorem otherStoreEvent_byte (s : State) :
    otherStoreEvent .byte a v s = agentStore { s with stale := s.stale ++ [a] } (a, v.setWidth 8) := by
  rw [otherStoreEvent, storeBytes_byte]
  rfl

theorem memPostEvent_byte (s : State) : memPostEvent .byte a v s =
    { noteStores [a] (refresh [a] s) with posted := s.posted ++ [(a, v.setWidth 8)] } := by
  rw [memPostEvent, storeBytes_byte]
  rfl

theorem notedStore_agentStore (he : e ≠ .memPost .byte a v) (s : State) (es : List Event) (stale : List Word) :
    NotedStore e a v s (agentStore { s with events := es, stale := stale } (a, v.setWidth 8)) where
  kept := .of_notes
  draws := rfl
  busHoles := rfl
  mem := by rw [if_neg he]; rfl
  tainted := agentStore_tainted _ _
  raced := agentStore_raced _ _

theorem notedStore_noteStores (s : State) (es : List Event) (stale : List Word) (posted : List ByteStore) :
    NotedStore (.memPost .byte a v) a v s
      { noteStores [a] { s with events := es, stale := stale } with posted := posted } where
  kept := .of_notes
  draws := rfl
  busHoles := rfl
  mem := by rw [if_pos rfl]; rfl
  tainted := by
    have hnote := noteStores_tainted [a] { s with events := es, stale := stale }
    rw [List.any_cons, List.any_nil, Bool.or_false] at hnote
    exact hnote
  raced := by
    have hnote := noteStores_raced [a] { s with events := es, stale := stale }
    have hread : inFlightWrites { s with events := es, stale := stale } a = inFlightWrites s a := rfl
    rw [hnote, List.filter_singleton, hread]
    cases inFlightWrites s a <;> rfl

theorem step_byteStore (he : IsByteStore e a v) {s : State} {es : List Event} (hev : s.events = e :: es) :
    ∃ t, step s = .next t ∧ t.events = es ∧ NotedStore e a v s t := by
  rcases he with rfl | rfl | rfl
  · exact ⟨_, (step_of_cons s _ es hev).trans (congrArg Host.Outcome.next (memStoreEvent_byte _)), rfl,
      notedStore_agentStore (e := .memStore .byte a v) Event.noConfusion s es _⟩
  · exact ⟨_, (step_of_cons s _ es hev).trans (congrArg Host.Outcome.next (otherStoreEvent_byte _)), rfl,
      notedStore_agentStore (e := .otherStore .byte a v) Event.noConfusion s es _⟩
  · exact ⟨_, (step_of_cons s _ es hev).trans (congrArg Host.Outcome.next (memPostEvent_byte _)), rfl,
      notedStore_noteStores s es _ _⟩

end

/-! ## The end of the command after it -/

theorem busRefuses_congr {s t : State} (i : Instr) (hsnap : t.snap = s.snap) (hbus : t.busHoles = s.busHoles)
    (hdraws : t.draws = s.draws) : busRefuses i t = busRefuses i s := by
  simp only [busRefuses, refusesSample, refusesCbufRead, refusesWrite, hsnap, hbus, hdraws]

/-- The engine's event completes a command in flight that no access refuses. -/
theorem step_completes {s : State} {i : Instr} {es : List Event} (hfly : s.inFlight = some i)
    (hev : s.events = .engine :: es) (hb : busRefuses i s = false) :
    step s = .next { complete i (passOf i s) s with events := es } := by
  rw [step_of_engineNext s i hfly (by rw [hev]; rfl), finish_events_congr, finish_of_not_busRefuses hb, hev]
  rfl

section
variable {e : Event} {a v : Word} {s t : State}

theorem NotedStore.wf (h : NotedStore e a v s t) (hmem : s.mem.wf) : t.mem.wf := by
  rw [h.mem]
  split
  · exact hmem
  · exact Memory.write8_wf _ _ _ hmem

theorem NotedStore.read8 (h : NotedStore e a v s t) (hmem : s.mem.wf) (b : Word) :
    t.mem.read8 b = if b = a ∧ e ≠ .memPost .byte a v then v.setWidth 8 else s.mem.read8 b := by
  rw [h.mem]
  by_cases he : e = .memPost .byte a v
  · simp [he]
  · simp [he, Memory.read8_write8 _ _ _ _ hmem]

/-- The command in flight is the same, and so are the accesses that the platform refuses it. -/
theorem NotedStore.step_completes (h : NotedStore e a v s t) {i : Instr} {es : List Event} (hfly : s.inFlight = some i)
    (hev : t.events = .engine :: es) (hb : busRefuses i s = false) :
    step t = .next { complete i (passOf i t) t with events := es } :=
  Machine.step_completes (h.kept.inFlight_eq.trans hfly) hev
    ((busRefuses_congr i h.kept.snap h.busHoles h.draws).trans hb)

/-- Outside the write footprint memory at the end is that after the store. -/
theorem NotedStore.read8_resultMemory (h : NotedStore e a v s t) (hmem : s.mem.wf) {i : Instr} {b : Word}
    (hb : b ∉ writeFootprint i s.snap) : (resultMemory i (passOf i t) t).read8 b = t.mem.read8 b :=
  read8_resultMemory_other i t b (h.wf hmem) (by rwa [h.kept.snap])

end

/-- Settles O59: the store is noted as a change of the inputs, and the end of the command is as without it. -/
theorem changedInputsStillComplete : Obligations.ChangedInputsStillComplete := by
  intro s i e a v es hfly hmem herr hb ha he hev
  obtain ⟨t, hstep, hevents, hnoted⟩ := step_byteStore he hev
  have htainted : t.tainted = true := by
    rw [hnoted.tainted, (inFlightReads_iff s i a hfly).2 ha, Bool.or_true]
  refine ⟨t, _, hstep, htainted, hnoted.step_completes hfly hevents hb, rfl, rfl, hnoted.kept.err.trans herr, rfl,
    fun b hout => ?_⟩
  exact (hnoted.read8_resultMemory hmem hout).trans (hnoted.read8 hmem b)

/-! ## A concurrent writer -/

/-- A byte is left equal by two runs of stores to the same addresses that store the same at its address. -/
theorem read8_writeAll_map_congr {m m' : Memory} (hm : m.wf) (hm' : m'.wf) {b : Word} (hb : m.read8 b = m'.read8 b)
    {f g : ByteStore → ByteStore} {ws : List ByteStore} (hf : ∀ w, (f w).1 = w.1) (hg : ∀ w, (g w).1 = w.1)
    (hfg : ∀ w ∈ ws, w.1 = b → f w = g w) : (m.writeAll (ws.map f)).read8 b = (m'.writeAll (ws.map g)).read8 b := by
  induction ws generalizing m m' with
  | nil => exact hb
  | cons w ws ih =>
    refine ih (Memory.write8_wf _ _ _ hm) (Memory.write8_wf _ _ _ hm') ?_ fun u hu => hfg u (List.mem_cons_of_mem _ hu)
    rw [Memory.read8_write8 _ _ _ _ hm, Memory.read8_write8 _ _ _ _ hm', hf, hg]
    by_cases hat : w.1 = b
    · rw [hfg w (List.mem_cons_self ..) hat, if_pos hat.symm, if_pos hat.symm]
    · rw [if_neg (Ne.symm hat), if_neg (Ne.symm hat), hb]

/-- A store to another element is no store to this one. -/
theorem racedElement_cons {mode : Mode} {raced : List Word} {a b : Word} (hne : b ≠ a) (hmate : b ≠ elementMate mode a) :
    racedElement mode (a :: raced) b = racedElement mode raced b := by
  have hmate' : elementMate mode b ≠ a := by
    rintro rfl
    exact hmate (elementMate_elementMate mode b).symm
  simp [racedElement, hne, hmate']

/-- What a command stores for a byte its rule computes: a free value where the results are unspecified. -/
def settledByte (i : Instr) (s : State) (w : ByteStore) : ByteStore :=
  if s.tainted || racedElement i.mode s.raced w.1 then (w.1, Config.anyByte s.draws w.1) else w

theorem settledByte_fst (i : Instr) (s : State) (w : ByteStore) : (settledByte i s w).1 = w.1 := by
  unfold settledByte
  split <;> rfl

theorem settle_eq_map_settledByte (i : Instr) (s : State) (ws : List ByteStore) : settle i s ws = ws.map (settledByte i s) :=
  settle_eq_map i s ws

/-- A store to one element of the write footprint leaves what the command stores in the others. -/
theorem NotedStore.read8_other_element {e : Event} {a v : Word} {s t : State} (h : NotedStore e a v s t) (hmem : s.mem.wf)
    {i : Instr} (hfly : s.inFlight = some i) (hwrite : a ∈ writeFootprint i s.snap) (hread : a ∉ readFootprint i s.snap)
    {b : Word} (hne : b ≠ a) (hmate : b ≠ elementMate i.mode a) :
    (resultMemory i (passOf i t) t).read8 b = (resultMemory i (passOf i s) s).read8 b := by
  have hbyte (c : Word) (hc : c ≠ a) : t.mem.read8 c = s.mem.read8 c := by
    rw [h.read8 hmem, if_neg fun hat => hc hat.1]
  have hpass : passOf i t = passOf i s :=
    passOf_readFootprint_congr i t s h.kept.snap h.draws fun c hc => hbyte c (by
      rintro rfl
      exact hread (h.kept.snap ▸ hc))
  have htainted : t.tainted = s.tainted := by
    have hnot : inFlightReads s a = false := by
      rw [← Bool.not_eq_true, inFlightReads_iff s i a hfly]
      exact hread
    rw [h.tainted, hnot, Bool.or_false]
  have hraced : t.raced = a :: s.raced := by
    rw [h.raced, if_pos ((inFlightWrites_iff s i a hfly).2 hwrite)]
  rw [hpass, resultMemory, resultMemory, settle_eq_map_settledByte, settle_eq_map_settledByte]
  refine read8_writeAll_map_congr (h.wf hmem) hmem (hbyte b hne) (settledByte_fst i t) (settledByte_fst i s) fun w _ hat => ?_
  rw [settledByte, settledByte, htainted, hraced, h.draws, racedElement_cons (hat ▸ hne) (hat ▸ hmate)]

/-- Settles O60: outside the footprint by the frame of the end, in another element by `NotedStore.read8_other_element`. -/
theorem concurrentWriterLeavesElementOpen : Obligations.ConcurrentWriterLeavesElementOpen := by
  intro s i e a v es hfly hmem herr hb hwrite hread he hev
  obtain ⟨t, hstep, hevents, hnoted⟩ := step_byteStore he hev
  have hpass : passOf i { s with events := .engine :: es } = passOf i s := passOf_congr i _ _ rfl rfl rfl
  have halone := step_completes (s := { s with events := .engine :: es }) hfly rfl hb
  rw [hpass] at halone
  refine ⟨t, _, _, hstep, hnoted.step_completes hfly hevents hb, halone, rfl, rfl, hnoted.kept.err.trans herr, rfl, rfl,
    fun b hout => ?_, fun b _ hne hmate => hnoted.read8_other_element hmem hfly hwrite hread hne hmate⟩
  have hne : b ≠ a := by
    rintro rfl
    exact hout hwrite
  have hframe := (hnoted.read8_resultMemory hmem hout).trans (hnoted.read8 hmem b)
  rwa [if_neg fun hat => hne hat.1] at hframe

end Sys2Proof.Machine
end
